-- ==== Sys2Proof/Word.lean ====
section
/-! DEFINITION. The word types of the block: the 72-bit command word and the 32-bit operand and response data
(spec/30_encoding.md R60, R61, R64). Bit 0 is the least significant bit everywhere (spec/00_scope.md R6). -/

namespace Sys2Proof

/-- A command word `op ‖ a ‖ b` (30_encoding R60). -/
abbrev CommandWord := BitVec 72

/-- An operand field `a` or `b`, and the data of a response (30_encoding R61, R64). -/
abbrev Data := BitVec 32

end Sys2Proof
end

