-- ==== Sys2Proof/Config.lean ====
section
/-! DEFINITION. The implementation parameters of spec/00_scope.md R4, their well-formedness R5, and the constants with
no body that stand for what the spec leaves OPEN. A configuration is data: statements quantify over it. -/

namespace Sys2Proof

/-- The parameters of 00_scope R4 that are not fixed by the source. -/
structure Config where
  /-- `TMR_W`, width of the tick timer; the spec's default is 8. -/
  tmrW : Nat := 8
  /-- `TICK_RELOAD`, OPEN. -/
  tickReload : Nat
  /-- `F_OSC` in Hz, OPEN. -/
  fOsc : Nat
  /-- `PWM_PRESCALE`, OPEN. -/
  pwmPrescale : Nat
  /-- `ADC_CHS_MASK`, the channel-select bits of ADCTL; the spec's default is 0x7C. -/
  adcChsMask : BitVec 8 := 0x7C#8
  /-- `DELAY_MS_INNER_US`, OPEN, below 1000. -/
  delayMsInnerUs : Nat
  /-- `DELAY_TICK_TOL`, OPEN. -/
  delayTickTol : Nat
  deriving DecidableEq, Repr

/-- 00_scope R5(a) to (e), and the bound `< 1000` that R4 puts on `DELAY_MS_INNER_US`. -/
abbrev Config.WellFormed (c : Config) : Prop :=
  1 ≤ c.tmrW
    ∧ c.tickReload < 2 ^ c.tmrW
    ∧ (1 ≤ c.pwmPrescale ∧ 1 ≤ c.fOsc)
    ∧ 4 * c.pwmPrescale * 65535 ≤ c.fOsc
    ∧ c.adcChsMask &&& 0x83#8 = 0#8
    ∧ c.delayMsInnerUs < 1000

/-! Parameters with a fixed value (00_scope R4, kind *fixed*). -/

/-- `COUNTER_W`. -/
abbrev counterW : Nat := 32
/-- `PWM_REG_MAX`. -/
abbrev pwmRegMax : Nat := 255
/-- `ADC_BITS`. -/
abbrev adcBits : Nat := 10
/-- `SETTLE_US`. -/
abbrev settleUs : Nat := 5
/-- `TONE_HALF_NUM`. -/
abbrev toneHalfNum : Nat := 500000
/-- `TONE_OVERHEAD_US`. -/
abbrev toneOverheadUs : Nat := 8

/-! What the spec leaves OPEN, as constants with no body (Log 3, Log 4). -/

/-- `TICK_RELOAD` of the machine `State.reset` describes: any 8-bit value. -/
opaque Config.openTickReload : BitVec 8
/-- One less than `PWM_PRESCALE` of that machine. -/
opaque Config.openPrescaleLessOne : Nat
/-- By how much `F_OSC` of that machine exceeds the least value R5(c), (d) allow. -/
opaque Config.openFOscExcess : Nat
/-- `DELAY_MS_INNER_US` of that machine. -/
opaque Config.openDelayMsInnerUs : Fin 1000
/-- `DELAY_TICK_TOL` of that machine. -/
opaque Config.openDelayTickTol : Nat
/-- What `RDREG 1` answers when TMR does not fit 32 bits, which needs `TMR_W` above 32 (Log 4). -/
opaque Config.openWideTimerRead : Nat → BitVec 32

/-- The configuration of `State.reset`: the spec's defaults, and OPEN values nothing is known of but R5. -/
def Config.platform : Config where
  tickReload := Config.openTickReload.toNat
  fOsc := 4 * (Config.openPrescaleLessOne + 1) * 65535 + Config.openFOscExcess
  pwmPrescale := Config.openPrescaleLessOne + 1
  delayMsInnerUs := Config.openDelayMsInnerUs.val
  delayTickTol := Config.openDelayTickTol

end Sys2Proof
end

