-- ==== Sys2Proof/Syntax.lean ====
section
/-! DEFINITION. The 21 commands of spec/30_encoding.md R65, one constructor per row of spec/opcode_table.json, with
the operands of R62 and R63. -/

namespace Sys2Proof

/-- A command of the foreground agent (30_encoding R65). -/
inductive Instr where
  /-- `RDREG n`: read a register or view (44_inspect R140). -/
  | rdreg (n : BitVec 4)
  /-- `TB_ARM`: arm the Tick Source (41_timebase R80). -/
  | tbArm
  /-- `TB_IRQ_ON`: enable the tick interrupt (41_timebase R81). -/
  | tbIrqOn
  /-- `TB_IRQ_OFF`: disable the tick interrupt (41_timebase R82). -/
  | tbIrqOff
  /-- `GIE_ON`: assert the global interrupt enable (41_timebase R83). -/
  | gieOn
  /-- `GIE_OFF`: deassert the global interrupt enable (41_timebase R84). -/
  | gieOff
  /-- `MILLIS`: read the MonotonicCounter (41_timebase R85). -/
  | millis
  /-- `ELAPSED start`: ticks since a timestamp (41_timebase R86). -/
  | elapsed (start : BitVec 32)
  /-- `TCMP start, dur`: has a duration elapsed (41_timebase R87). -/
  | tcmp (start : BitVec 32) (dur : BitVec 32)
  /-- `ADC_SELECT ch`: enable the converter and select an input (42_adc R100). -/
  | adcSelect (ch : BitVec 8)
  /-- `ADC_JUST_R`: right-justified results (42_adc R101). -/
  | adcJustR
  /-- `ADC_JUST_L`: left-justified results (42_adc R102). -/
  | adcJustL
  /-- `ADC_GO`: trigger a conversion (42_adc R103). -/
  | adcGo
  /-- `ADC_POLL`: read the conversion status (42_adc R104). -/
  | adcPoll
  /-- `ADC_RESULT`: read the 16-bit result (42_adc R105). -/
  | adcResult
  /-- `ADC_RESULT_HI`: read the top byte of the result (42_adc R106). -/
  | adcResultHi
  /-- `ADC_OFF`: disable the converter (42_adc R107). -/
  | adcOff
  /-- `PWM_START freq`: compute period and duty and start the waveform (43_pwm R120). -/
  | pwmStart (freq : BitVec 16)
  /-- `PWM_ENABLE`: enable output compare (43_pwm R124). -/
  | pwmEnable
  /-- `PWM_DISABLE`: disable output compare (43_pwm R125). -/
  | pwmDisable
  /-- `PWM_STOP`: stop the waveform (43_pwm R126). -/
  | pwmStop
  deriving DecidableEq, Repr

/-- The mnemonic of a command, as 30_encoding R65 and R68 write it. -/
def Instr.mnemonic : Instr → String
  | .rdreg _ => "RDREG"
  | .tbArm => "TB_ARM"
  | .tbIrqOn => "TB_IRQ_ON"
  | .tbIrqOff => "TB_IRQ_OFF"
  | .gieOn => "GIE_ON"
  | .gieOff => "GIE_OFF"
  | .millis => "MILLIS"
  | .elapsed _ => "ELAPSED"
  | .tcmp _ _ => "TCMP"
  | .adcSelect _ => "ADC_SELECT"
  | .adcJustR => "ADC_JUST_R"
  | .adcJustL => "ADC_JUST_L"
  | .adcGo => "ADC_GO"
  | .adcPoll => "ADC_POLL"
  | .adcResult => "ADC_RESULT"
  | .adcResultHi => "ADC_RESULT_HI"
  | .adcOff => "ADC_OFF"
  | .pwmStart _ => "PWM_START"
  | .pwmEnable => "PWM_ENABLE"
  | .pwmDisable => "PWM_DISABLE"
  | .pwmStop => "PWM_STOP"

end Sys2Proof
end

