-- ==== Sys2Proof/WellFormed.lean ====
section
/-! DEFINITION. The one check on a command that the widths of its operands do not already make: the register number
of `RDREG` is 0x0 to 0xA (spec/10_state.md R28, spec/30_encoding.md R65 and R66(c)). -/

namespace Sys2Proof

/-- A command some legal word stands for. -/
def Instr.wellFormed : Instr → Bool
  | .rdreg n => decide (n ≤ 0xA#4)
  | .tbArm | .tbIrqOn | .tbIrqOff | .gieOn | .gieOff | .millis => true
  | .elapsed _ | .tcmp _ _ => true
  | .adcSelect _ => true
  | .adcJustR | .adcJustL | .adcGo | .adcPoll | .adcResult | .adcResultHi | .adcOff => true
  | .pwmStart _ => true
  | .pwmEnable | .pwmDisable | .pwmStop => true

end Sys2Proof
end

