-- ==== Sys2Proof/Decode.lean ====
section
/-! DEFINITION. Decoding and encoding of command words (spec/30_encoding.md R60 to R67), and the mask and match table
of R65 written out beside them. Decoding is total on all 2^72 words and rejects by name exactly those of R66. -/

namespace Sys2Proof

/-! The three fields of R61. -/

def cmdOp (w : CommandWord) : BitVec 8 := w.extractLsb' 64 8
def cmdA (w : CommandWord) : BitVec 32 := w.extractLsb' 32 32
def cmdB (w : CommandWord) : BitVec 32 := w.extractLsb' 0 32

/-- `op ‖ a ‖ b` (R61). -/
def mkCommand (op : BitVec 8) (a b : BitVec 32) : CommandWord := op ++ a ++ b

/-- Why a word is illegal: R66(a), (b), (c). The machine's response does not tell them apart (60_exceptions R181). -/
inductive IllegalReason where
  /-- R66(a): `op` is not assigned. -/
  | unassignedOpcode
  /-- R66(b): a reserved operand bit is 1. -/
  | reservedBits
  /-- R66(c): `RDREG` of register number 0xB to 0xF. -/
  | reservedRegister
  deriving DecidableEq, Repr

/-- What a word decodes to. -/
inductive Decoded where
  | command (i : Instr)
  | illegal (r : IllegalReason)
  deriving DecidableEq, Repr

/-- Format N: no operand bits are used (R62). -/
def decodeN (i : Instr) (a b : BitVec 32) : Decoded :=
  if a = 0 ∧ b = 0 then .command i else .illegal .reservedBits

/-- Format R: `n = a[3:0]` (R62, R63), at most 0xA (R65). -/
def decodeR (a b : BitVec 32) : Decoded :=
  if a.extractLsb' 4 28 = 0 ∧ b = 0 then
    if a.extractLsb' 0 4 ≤ 0xA#4 then .command (.rdreg (a.extractLsb' 0 4)) else .illegal .reservedRegister
  else .illegal .reservedBits

/-- Format C: `ch = a[7:0]` (R62, R63). -/
def decodeC (a b : BitVec 32) : Decoded :=
  if a.extractLsb' 8 24 = 0 ∧ b = 0 then .command (.adcSelect (a.extractLsb' 0 8)) else .illegal .reservedBits

/-- Format F: `freq = a[15:0]` (R62, R63). -/
def decodeF (a b : BitVec 32) : Decoded :=
  if a.extractLsb' 16 16 = 0 ∧ b = 0 then .command (.pwmStart (a.extractLsb' 0 16)) else .illegal .reservedBits

/-- Format T1: `start = a[31:0]` (R62, R63). -/
def decodeT1 (a b : BitVec 32) : Decoded :=
  if b = 0 then .command (.elapsed a) else .illegal .reservedBits

/-- The opcode map of R65 over the three fields. -/
def decodeFields (op : BitVec 8) (a b : BitVec 32) : Decoded :=
  match op.toNat with
  | 0x01 => decodeR a b
  | 0x10 => decodeN .tbArm a b
  | 0x11 => decodeN .tbIrqOn a b
  | 0x12 => decodeN .tbIrqOff a b
  | 0x13 => decodeN .gieOn a b
  | 0x14 => decodeN .gieOff a b
  | 0x15 => decodeN .millis a b
  | 0x16 => decodeT1 a b
  | 0x17 => .command (.tcmp a b)
  | 0x20 => decodeC a b
  | 0x21 => decodeN .adcJustR a b
  | 0x22 => decodeN .adcJustL a b
  | 0x23 => decodeN .adcGo a b
  | 0x24 => decodeN .adcPoll a b
  | 0x25 => decodeN .adcResult a b
  | 0x26 => decodeN .adcResultHi a b
  | 0x27 => decodeN .adcOff a b
  | 0x30 => decodeF a b
  | 0x31 => decodeN .pwmEnable a b
  | 0x32 => decodeN .pwmDisable a b
  | 0x33 => decodeN .pwmStop a b
  | _ => .illegal .unassignedOpcode

/-- The decoder: total on all words (R66). -/
def decode (w : CommandWord) : Decoded := decodeFields (cmdOp w) (cmdA w) (cmdB w)

/-! The encoder, from the same table. -/

/-- The opcode of a command (R65). -/
def Instr.opcode : Instr → BitVec 8
  | .rdreg _ => 0x01
  | .tbArm => 0x10
  | .tbIrqOn => 0x11
  | .tbIrqOff => 0x12
  | .gieOn => 0x13
  | .gieOff => 0x14
  | .millis => 0x15
  | .elapsed _ => 0x16
  | .tcmp _ _ => 0x17
  | .adcSelect _ => 0x20
  | .adcJustR => 0x21
  | .adcJustL => 0x22
  | .adcGo => 0x23
  | .adcPoll => 0x24
  | .adcResult => 0x25
  | .adcResultHi => 0x26
  | .adcOff => 0x27
  | .pwmStart _ => 0x30
  | .pwmEnable => 0x31
  | .pwmDisable => 0x32
  | .pwmStop => 0x33

/-- Field `a` of a command: its operand, every other bit 0 (R63, R68). -/
def Instr.operandA : Instr → BitVec 32
  | .rdreg n => n.setWidth 32
  | .elapsed start => start
  | .tcmp start _ => start
  | .adcSelect ch => ch.setWidth 32
  | .pwmStart freq => freq.setWidth 32
  | .tbArm | .tbIrqOn | .tbIrqOff | .gieOn | .gieOff | .millis => 0
  | .adcJustR | .adcJustL | .adcGo | .adcPoll | .adcResult | .adcResultHi | .adcOff => 0
  | .pwmEnable | .pwmDisable | .pwmStop => 0

/-- Field `b` of a command (R63, R68). -/
def Instr.operandB : Instr → BitVec 32
  | .tcmp _ dur => dur
  | .rdreg _ | .elapsed _ | .adcSelect _ | .pwmStart _ => 0
  | .tbArm | .tbIrqOn | .tbIrqOff | .gieOn | .gieOff | .millis => 0
  | .adcJustR | .adcJustL | .adcGo | .adcPoll | .adcResult | .adcResultHi | .adcOff => 0
  | .pwmEnable | .pwmDisable | .pwmStop => 0

/-- The word a command assembles to (R65, R68). -/
def encode (i : Instr) : CommandWord := mkCommand i.opcode i.operandA i.operandB

/-! The mask and match table of R65, a second reading of the same encoding: the decoder does not use it. -/

/-- One row of R65's table. `maxN` is the bound of the extra condition on `a[3:0]`, where the row has one. -/
structure OpcodeRow where
  mnemonic : String
  mask : CommandWord
  pattern : CommandWord
  maxN : Option (BitVec 4)
  deriving DecidableEq, Repr

/-- A row accepts a word: `w and mask = match`, and the extra condition where there is one (R65). -/
def OpcodeRow.accepts (r : OpcodeRow) (w : CommandWord) : Bool :=
  w &&& r.mask == r.pattern && (match r.maxN with | none => true | some m => decide (w.extractLsb' 32 4 ≤ m))

/-- The rows of R65 in its order. -/
def opcodeTable : List OpcodeRow :=
  [ ⟨"RDREG",         0xFFFFFFFFF0FFFFFFFF, 0x010000000000000000, some 0xA#4⟩,
    ⟨"TB_ARM",        0xFFFFFFFFFFFFFFFFFF, 0x100000000000000000, none⟩,
    ⟨"TB_IRQ_ON",     0xFFFFFFFFFFFFFFFFFF, 0x110000000000000000, none⟩,
    ⟨"TB_IRQ_OFF",    0xFFFFFFFFFFFFFFFFFF, 0x120000000000000000, none⟩,
    ⟨"GIE_ON",        0xFFFFFFFFFFFFFFFFFF, 0x130000000000000000, none⟩,
    ⟨"GIE_OFF",       0xFFFFFFFFFFFFFFFFFF, 0x140000000000000000, none⟩,
    ⟨"MILLIS",        0xFFFFFFFFFFFFFFFFFF, 0x150000000000000000, none⟩,
    ⟨"ELAPSED",       0xFF00000000FFFFFFFF, 0x160000000000000000, none⟩,
    ⟨"TCMP",          0xFF0000000000000000, 0x170000000000000000, none⟩,
    ⟨"ADC_SELECT",    0xFFFFFFFF00FFFFFFFF, 0x200000000000000000, none⟩,
    ⟨"ADC_JUST_R",    0xFFFFFFFFFFFFFFFFFF, 0x210000000000000000, none⟩,
    ⟨"ADC_JUST_L",    0xFFFFFFFFFFFFFFFFFF, 0x220000000000000000, none⟩,
    ⟨"ADC_GO",        0xFFFFFFFFFFFFFFFFFF, 0x230000000000000000, none⟩,
    ⟨"ADC_POLL",      0xFFFFFFFFFFFFFFFFFF, 0x240000000000000000, none⟩,
    ⟨"ADC_RESULT",    0xFFFFFFFFFFFFFFFFFF, 0x250000000000000000, none⟩,
    ⟨"ADC_RESULT_HI", 0xFFFFFFFFFFFFFFFFFF, 0x260000000000000000, none⟩,
    ⟨"ADC_OFF",       0xFFFFFFFFFFFFFFFFFF, 0x270000000000000000, none⟩,
    ⟨"PWM_START",     0xFFFFFF0000FFFFFFFF, 0x300000000000000000, none⟩,
    ⟨"PWM_ENABLE",    0xFFFFFFFFFFFFFFFFFF, 0x310000000000000000, none⟩,
    ⟨"PWM_DISABLE",   0xFFFFFFFFFFFFFFFFFF, 0x320000000000000000, none⟩,
    ⟨"PWM_STOP",      0xFFFFFFFFFFFFFFFFFF, 0x330000000000000000, none⟩ ]

/-- The command word whose low `nbits` bits are those of `w`, every bit above them 0. -/
def tableWord (nbits w : Nat) : CommandWord := BitVec.ofNat 72 (w % 2 ^ nbits)

/-- The instruction the decoder reads from a word numbered as spec/opcode_table.json numbers it: one 72-bit number,
bit 71 the most significant bit of `op`, bit 0 the least significant bit of `b`. -/
def decodeTableWord (nbits w : Nat) : Option Instr :=
  match decode (tableWord nbits w) with
  | .command i => some i
  | .illegal _ => none

end Sys2Proof
end

