-- ==== Sys2Proof/Machine/State.lean ====
section
/-! DEFINITION. The state of the block as plain data: the ten stored registers of spec/10_state.md R10, the response
port of R26, and two fields of the model's own, the steps the environment still offers and the configuration, which
R30 calls inputs and parameters of the step relation. -/

namespace Sys2Proof.Machine

/-- The reset draws of 70_reset_and_hazards R210: one arbitrary value for each register 10_state R29 leaves
unspecified. `tmr` is reduced to `TMR_W` bits and `chs` to the bits of `ADC_CHS_MASK` where it is used. -/
structure ResetDraw where
  tmr : Nat
  chs : BitVec 8
  adsamp : BitVec 10
  pwmper : BitVec 8
  pwmduty : BitVec 8
  deriving DecidableEq, Repr

/-- The steps of the agents other than the foreground agent (00_scope R8), with their draws. -/
inductive HwEvent where
  /-- `TMR_COUNT`, a pulse on `tmr_ev` (60_exceptions R184). -/
  | tmrCount
  /-- `TICK_ISR`, the handler runs (60_exceptions R186). -/
  | tickIsr
  /-- `ADC_DONE` drawing `sample` (42_adc R108). -/
  | adcDone (sample : BitVec 10)
  /-- `PWM_COUNT`, a pulse on `pwm_ev` (43_pwm R128). -/
  | pwmCount
  /-- `RESET`, with its draws (70_reset_and_hazards R210). -/
  | reset (draw : ResetDraw)
  deriving DecidableEq, Repr

/-- One step offered to the block (00_scope R8): the foreground agent's command word, or another agent's step. -/
inductive Event where
  | cmd (w : CommandWord)
  | hw (e : HwEvent)
  deriving DecidableEq, Repr

/-- A response (30_encoding R64): `rsp_err` and `rsp_data`. -/
structure Response where
  err : Bool
  data : Data
  deriving DecidableEq, Repr

/-- The state (10_state R10, R26, R30). -/
structure State where
  /-- TICKS, the MonotonicCounter (10_state R13). -/
  ticks : BitVec 32
  /-- TMR, a number of `cfg.tmrW` bits (10_state R14, Log 4). -/
  tmr : Nat
  /-- TBCTL = GIE TIF TIE TON (10_state R16). -/
  tbctl : BitVec 4
  /-- TRELOAD, a number of `cfg.tmrW` bits (10_state R15). -/
  treload : Nat
  /-- ADCTL = FMT CHS GO ON (10_state R17). -/
  adctl : BitVec 8
  /-- ADSAMP, the raw sample (10_state R18). -/
  adsamp : BitVec 10
  /-- PWMCTL = OCEN PTON (10_state R19). -/
  pwmctl : BitVec 2
  /-- PWMPER (10_state R20). -/
  pwmper : BitVec 8
  /-- PWMDUTY (10_state R21). -/
  pwmduty : BitVec 8
  /-- PWMTMR, the PWM counter (10_state R22). -/
  pwmtmr : BitVec 8
  /-- The ports `rsp_valid`, `rsp_err`, `rsp_data` in the step just taken (10_state R26): `none` is `rsp_valid` = 0. -/
  rsp : Option Response
  /-- The model's own: the steps the environment still offers, oldest first (Log 1). -/
  events : List Event
  /-- The model's own: the parameters of 00_scope R4 (Log 3). -/
  cfg : Config
  deriving DecidableEq, Repr

/-- Reasons to stop with a fault: there is none. No step of the block fails (60_exceptions R186 "No error path exists",
20_memory R45 "there is nothing to fault on"), and an illegal command is answered, not stopped on (R181). Safe. -/
inductive Fault where
  deriving DecidableEq, Repr

/-- Reasons to refuse. `step` answers none of them; the last three belong to power-on and to the host layer. -/
inductive Refusal where
  /-- An instruction with no meaning yet. Raised by nothing: every command has its meaning. Safe. -/
  | notModelled (mnemonic : String)
  /-- 00_scope R5: the model refuses an ill-formed configuration. Raised by `State.powerOn`. Safe. -/
  | illFormedConfig
  /-- 45_host_routines R150: a `require` was false, the routine has no defined meaning. Raised by the host layer. Safe. -/
  | requireFailed
  /-- 60_exceptions R181: a host program that issues an illegal command is refused. Raised by the host layer. Safe. -/
  | illegalCommandIssued
  deriving DecidableEq, Repr

/-- The outcome of one step of the block. -/
abbrev StepOutcome := Host.Outcome State Fault Refusal

/-- The machine right after reset (10_state R29), nothing offered yet. TMR, CHS, ADSAMP, PWMPER and PWMDUTY are
unspecified there: this one state names 0 for each (DESIGN CHOICE, Log 2, unsafe), while the `RESET` step takes
every draw. -/
def State.reset : State where
  ticks := 0
  tmr := 0
  tbctl := 0
  treload := Config.platform.tickReload
  adctl := 0
  adsamp := 0
  pwmctl := 0
  pwmper := 0
  pwmduty := 0
  pwmtmr := 0
  rsp := none
  events := []
  cfg := Config.platform

end Sys2Proof.Machine
end

