-- ==== Sys2Proof/Machine/Flags.lean ====
section
/-! DEFINITION. The status and control bits: fields of TBCTL, ADCTL and PWMCTL (spec/10_state.md R16, R17, R19), their
reads and their writes. The block has no arithmetic flags (R24). -/

namespace Sys2Proof.Machine

/-- `v` with bit `i` replaced by `b`, the other bits kept. -/
def putBit {w : Nat} (v : BitVec w) (i : Nat) (b : Bool) : BitVec w :=
  if b then v ||| (1#w <<< i) else v &&& ~~~(1#w <<< i)

/-! TBCTL (10_state R16). -/

/-- `TBCTL.TON`: the tick timer is running. -/
def State.ton (s : State) : Bool := s.tbctl.getLsbD 0
/-- `TBCTL.TIE`: the tick interrupt is enabled. -/
def State.tie (s : State) : Bool := s.tbctl.getLsbD 1
/-- `TBCTL.TIF`: the overflow condition, a tick is pending. -/
def State.tif (s : State) : Bool := s.tbctl.getLsbD 2
/-- `TBCTL.GIE`: global interrupt enable. -/
def State.gie (s : State) : Bool := s.tbctl.getLsbD 3

def State.putTon (s : State) (b : Bool) : State := { s with tbctl := putBit s.tbctl 0 b }
def State.putTie (s : State) (b : Bool) : State := { s with tbctl := putBit s.tbctl 1 b }
def State.putTif (s : State) (b : Bool) : State := { s with tbctl := putBit s.tbctl 2 b }
def State.putGie (s : State) (b : Bool) : State := { s with tbctl := putBit s.tbctl 3 b }

/-! ADCTL (10_state R17). -/

/-- `ADCTL.ON`: the converter is enabled. -/
def State.adOn (s : State) : Bool := s.adctl.getLsbD 0
/-- `ADCTL.GO`: a conversion is pending. -/
def State.adGo (s : State) : Bool := s.adctl.getLsbD 1
/-- `ADCTL.FMT`: the result is left-justified. -/
def State.adFmt (s : State) : Bool := s.adctl.getLsbD 7
/-- `ADCTL.CHS`, in place: the bits of `ADC_CHS_MASK`. -/
def State.adChs (s : State) : BitVec 8 := s.adctl &&& s.cfg.adcChsMask

def State.putAdOn (s : State) (b : Bool) : State := { s with adctl := putBit s.adctl 0 b }
def State.putAdGo (s : State) (b : Bool) : State := { s with adctl := putBit s.adctl 1 b }
def State.putAdFmt (s : State) (b : Bool) : State := { s with adctl := putBit s.adctl 7 b }
/-- Rewrite only the channel-select bits, with those of `ch` (42_adc R100). -/
def State.putAdChs (s : State) (ch : BitVec 8) : State :=
  { s with adctl := (s.adctl &&& ~~~s.cfg.adcChsMask) ||| (ch &&& s.cfg.adcChsMask) }

/-! PWMCTL (10_state R19). -/

/-- `PWMCTL.PTON`: the PWM timer is running. -/
def State.pton (s : State) : Bool := s.pwmctl.getLsbD 0
/-- `PWMCTL.OCEN`: output compare is enabled. -/
def State.ocen (s : State) : Bool := s.pwmctl.getLsbD 1

def State.putPton (s : State) (b : Bool) : State := { s with pwmctl := putBit s.pwmctl 0 b }
def State.putOcen (s : State) (b : Bool) : State := { s with pwmctl := putBit s.pwmctl 1 b }

end Sys2Proof.Machine
end

