-- ==== Sys2Proof/Machine/Operands.lean ====
section
/-! DEFINITION. The one operand form that names state: a register number of spec/10_state.md R28, with the views ADRES
(R18) and PWMOUT (R23) and the port views of R26. The other operands are plain data of the command word
(spec/30_encoding.md R63). -/

namespace Sys2Proof.Machine

/-- The view ADRES (10_state R18): the raw sample in the alignment in force when it is read. -/
def State.adres (s : State) : BitVec 16 :=
  if s.adFmt then s.adsamp ++ 0#6 else s.adsamp.setWidth 16

/-- The view PWMOUT (10_state R23): the level of the PWM pin, 1 the active state. -/
def State.pwmOut (s : State) : Bool := s.ocen && decide (s.pwmtmr < s.pwmduty)

/-- The port `tick_irq` (10_state R26). -/
def State.tickIrq (s : State) : Bool := s.tif && s.tie && s.gie

/-- The port `cmd_ready` (10_state R26): the block never stalls a command. -/
def State.cmdReady (_s : State) : Bool := true

/-- TMR as `RDREG 1` shows it: zero-extended to 32 bits (10_state R28). The spec bounds `TMR_W` nowhere and states no
result where TMR does not fit 32 bits: there the value is a constant with no body (Log 4). -/
def timerRead (v : Nat) : Data := if v < 2 ^ 32 then BitVec.ofNat 32 v else Config.openWideTimerRead v

/-- `reg[n]` zero-extended to 32 bits, `none` for the reserved numbers 0xB to 0xF (10_state R28). -/
def readReg (s : State) (n : BitVec 4) : Option Data :=
  match n.toNat with
  | 0x0 => some s.ticks
  | 0x1 => some (timerRead s.tmr)
  | 0x2 => some (s.tbctl.setWidth 32)
  | 0x3 => some (timerRead s.treload)
  | 0x4 => some (s.adctl.setWidth 32)
  | 0x5 => some (s.adres.setWidth 32)
  | 0x6 => some (s.pwmctl.setWidth 32)
  | 0x7 => some (s.pwmper.setWidth 32)
  | 0x8 => some (s.pwmduty.setWidth 32)
  | 0x9 => some (s.pwmtmr.setWidth 32)
  | 0xA => some ((BitVec.ofBool s.pwmOut).setWidth 32)
  | _ => none

end Sys2Proof.Machine
end

