-- ==== Sys2Proof/Machine/Ops.lean ====
section
/-! DEFINITION. The shared operations: completing a command with a response (spec/00_scope.md R7, spec/30_encoding.md
R64), raising `IllegalCommand` (spec/60_exceptions.md R181), the elapsed-time arithmetic (spec/41_timebase.md R88), the
scaler of the Waveform Generator (spec/43_pwm.md R121, R122), arming the timer, and taking the tick interrupt
(spec/60_exceptions.md R186). -/

namespace Sys2Proof.Machine

/-- `rsp(d)`: the command completes with `rsp_err` = 0 and `rsp_data` = `d` zero-extended to 32 bits (00_scope R7). -/
def State.respond (s : State) {w : Nat} (d : BitVec w) : State :=
  { s with rsp := some { err := false, data := d.setWidth 32 } }

/-- `rsp()`: the same with data 0 (00_scope R7). -/
def State.respondNone (s : State) : State := s.respond 0#32

/-- `raise IllegalCommand(cmd)`: taking the block's one synchronous exception (60_exceptions R181). The command
completes with `rsp_err` = 1 and `rsp_data` = 0, every register keeps its value, no handler runs and nothing is
pending. There is no return from it: the next command is accepted normally. -/
def State.raiseIllegalCommand (s : State) : State :=
  { s with rsp := some { err := true, data := 0 } }

/-- Ticks since a timestamp, modulo 2^32 (41_timebase R86, R88). -/
def elapsedTicks (ticks start : BitVec 32) : BitVec 32 := ticks - start

/-- Has the duration elapsed, unsigned `>=` (41_timebase R87). -/
def durationReached (ticks start dur : BitVec 32) : Bool := decide (dur ≤ elapsedTicks ticks start)

/-- The quotient `q` of 43_pwm R121, by floor division of exact integers. -/
def pwmQuotient (c : Config) (freq : Nat) : Nat := c.fOsc / (4 * c.pwmPrescale * freq)

/-- `Period(freq)` of 43_pwm R121. In a well-formed configuration `q` is at least 1, so the subtraction is exact. -/
def pwmPeriod (c : Config) (freq : Nat) : Nat := min (pwmQuotient c freq - 1) pwmRegMax

/-- `Duty(per)` of 43_pwm R122: half the period register, rounded half up (Log 9). -/
def pwmDutyOf (per : Nat) : Nat := (per + 1) / 2

/-- Arming the Tick Source (41_timebase R80). -/
def State.armTick (s : State) : State :=
  (({ s with tmr := s.treload }.putTif false).putTie true).putTon true

/-- Taking the tick interrupt (60_exceptions R186): clear the overflow condition, reload the timer, count one tick, as
one atomic step. It saves nothing and vectors nowhere (R188), and its third write is its return (R189). -/
def State.takeTickInterrupt (s : State) : State :=
  let cleared := s.putTif false
  let reloaded := { cleared with tmr := cleared.treload }
  { reloaded with ticks := reloaded.ticks + 1 }

end Sys2Proof.Machine
end

