-- ==== Sys2Proof/Machine/Agents.lean ====
section
/-! DEFINITION. The steps the hardware and the environment take by themselves: `TMR_COUNT`, `TICK_ISR`
(spec/60_exceptions.md R184 to R186), `ADC_DONE` (spec/42_adc.md R108), `PWM_COUNT` (spec/43_pwm.md R128), `RESET`
(spec/70_reset_and_hazards.md R210), their enabling conditions, and power-on with a configuration (spec/00_scope.md R5). -/

namespace Sys2Proof.Machine

/-- `TMR_COUNT` (60_exceptions R184): count, and at the top wrap to 0 and set the overflow condition. -/
def State.tmrCountStep (s : State) : State :=
  if s.tmr = 2 ^ s.cfg.tmrW - 1 then { s with tmr := 0 }.putTif true
  else { s with tmr := s.tmr + 1 }

/-- `ADC_DONE` drawing `sample` (42_adc R108). -/
def State.adcDoneStep (sample : BitVec 10) (s : State) : State :=
  { s with adsamp := sample }.putAdGo false

/-- `PWM_COUNT` (43_pwm R128). -/
def State.pwmCountStep (s : State) : State :=
  if s.pwmper ≤ s.pwmtmr then { s with pwmtmr := 0 } else { s with pwmtmr := s.pwmtmr + 1 }

/-- `RESET` with its draws (70_reset_and_hazards R210, 10_state R29). The offered events and the configuration are the
environment's and stay. -/
def State.resetStep (d : ResetDraw) (s : State) : State :=
  { ticks := 0
    tmr := d.tmr % 2 ^ s.cfg.tmrW
    tbctl := 0
    treload := s.cfg.tickReload
    adctl := d.chs &&& s.cfg.adcChsMask
    adsamp := d.adsamp
    pwmctl := 0
    pwmper := d.pwmper
    pwmduty := d.pwmduty
    pwmtmr := 0
    rsp := none
    events := s.events
    cfg := s.cfg }

/-- The enabling condition of each agent's step: R184, R185, 42_adc R108, 43_pwm R128, 70_reset_and_hazards R210. -/
def HwEvent.enabled (e : HwEvent) (s : State) : Bool :=
  match e with
  | .tmrCount => s.ton
  | .tickIsr => s.tif && s.tie && s.gie
  | .adcDone _ => s.adOn && s.adGo
  | .pwmCount => s.pton
  | .reset _ => true

/-- The effect of each agent's step. -/
def HwEvent.effect (e : HwEvent) (s : State) : State :=
  match e with
  | .tmrCount => s.tmrCountStep
  | .tickIsr => s.takeTickInterrupt
  | .adcDone sample => s.adcDoneStep sample
  | .pwmCount => s.pwmCountStep
  | .reset draw => s.resetStep draw

/-- `rsp_valid` is asserted only in the step that accepts a command (10_state R26). -/
def State.rspIdle (s : State) : State := { s with rsp := none }

/-- An offered agent step: taken where it is enabled; where it is not it does not occur (00_scope R8, Log 7). -/
def hardwareStep (e : HwEvent) (s : State) : State :=
  if e.enabled s then e.effect s.rspIdle else s.rspIdle

/-- Power-on with a chosen configuration: a reset under it, or a refusal where it is ill-formed (00_scope R5, Log 8). -/
def State.powerOn (c : Config) (d : ResetDraw) (es : List Event) : StepOutcome :=
  if c.WellFormed then .next ({ State.reset with cfg := c, events := es }.resetStep d)
  else .refused .illFormedConfig

end Sys2Proof.Machine
end

