-- ==== Sys2Proof/Machine/Adc.lean ====
section
/-! DEFINITION. The Analog Sampler commands (spec/42_adc.md R100 to R107). -/

namespace Sys2Proof.Machine

/-- `ADC_SELECT ch` (42_adc R100): the channel-select bits from `ch`, the converter on, GO and FMT kept. -/
def execAdcSelect (ch : BitVec 8) (s : State) : StepOutcome :=
  .next ((s.putAdChs ch).putAdOn true).respondNone

/-- `ADC_JUST_R` (42_adc R101). -/
def execAdcJustR (s : State) : StepOutcome := .next (s.putAdFmt false).respondNone

/-- `ADC_JUST_L` (42_adc R102). -/
def execAdcJustL (s : State) : StepOutcome := .next (s.putAdFmt true).respondNone

/-- `ADC_GO` (42_adc R103): sets the trigger whatever ON holds. -/
def execAdcGo (s : State) : StepOutcome := .next (s.putAdGo true).respondNone

/-- `ADC_POLL` (42_adc R104). -/
def execAdcPoll (s : State) : StepOutcome := .next (s.respond (BitVec.ofBool s.adGo))

/-- `ADC_RESULT` (42_adc R105). -/
def execAdcResult (s : State) : StepOutcome := .next (s.respond s.adres)

/-- `ADC_RESULT_HI` (42_adc R106): `ADRES[15:8]`. -/
def execAdcResultHi (s : State) : StepOutcome := .next (s.respond (s.adres.extractLsb' 8 8))

/-- `ADC_OFF` (42_adc R107): clears ON only, a pending conversion is frozen. -/
def execAdcOff (s : State) : StepOutcome := .next (s.putAdOn false).respondNone

end Sys2Proof.Machine
end

