-- ==== Sys2Proof/Machine/Inspect.lean ====
section
/-! DEFINITION. The inspect command (spec/44_inspect.md R140). -/

namespace Sys2Proof.Machine

/-- `RDREG n` (44_inspect R140): the register or view, or `IllegalCommand` for a reserved number. -/
def execRdreg (n : BitVec 4) (s : State) : StepOutcome :=
  match readReg s n with
  | some v => .next (s.respond v)
  | none => .next s.raiseIllegalCommand

end Sys2Proof.Machine
end

