-- ==== Sys2Proof/Machine/Pwm.lean ====
section
/-! DEFINITION. The Waveform Generator commands (spec/43_pwm.md R120, R124 to R126). -/

namespace Sys2Proof.Machine

/-- `PWM_START freq` (43_pwm R120): a zero frequency changes no register; any other writes period and duty and enables
timer and output compare. PWMTMR is not written. -/
def execPwmStart (freq : BitVec 16) (s : State) : StepOutcome :=
  if freq = 0 then .next s.respondNone
  else
    let per := pwmPeriod s.cfg freq.toNat
    let written := { s with pwmper := BitVec.ofNat 8 per, pwmduty := BitVec.ofNat 8 (pwmDutyOf per) }
    .next ((written.putPton true).putOcen true).respondNone

/-- `PWM_ENABLE` (43_pwm R124). -/
def execPwmEnable (s : State) : StepOutcome := .next (s.putOcen true).respondNone

/-- `PWM_DISABLE` (43_pwm R125). -/
def execPwmDisable (s : State) : StepOutcome := .next (s.putOcen false).respondNone

/-- `PWM_STOP` (43_pwm R126). -/
def execPwmStop (s : State) : StepOutcome := .next ((s.putOcen false).putPton false).respondNone

end Sys2Proof.Machine
end

