-- ==== Sys2Proof/Machine/Timebase.lean ====
section
/-! DEFINITION. The timebase commands (spec/41_timebase.md R80 to R87). -/

namespace Sys2Proof.Machine

/-- `TB_ARM` (41_timebase R80). -/
def execTbArm (s : State) : StepOutcome := .next s.armTick.respondNone

/-- `TB_IRQ_ON` (41_timebase R81). -/
def execTbIrqOn (s : State) : StepOutcome := .next (s.putTie true).respondNone

/-- `TB_IRQ_OFF` (41_timebase R82). -/
def execTbIrqOff (s : State) : StepOutcome := .next (s.putTie false).respondNone

/-- `GIE_ON` (41_timebase R83). -/
def execGieOn (s : State) : StepOutcome := .next (s.putGie true).respondNone

/-- `GIE_OFF` (41_timebase R84). -/
def execGieOff (s : State) : StepOutcome := .next (s.putGie false).respondNone

/-- `MILLIS` (41_timebase R85). -/
def execMillis (s : State) : StepOutcome := .next (s.respond s.ticks)

/-- `ELAPSED start` (41_timebase R86). -/
def execElapsed (start : BitVec 32) (s : State) : StepOutcome :=
  .next (s.respond (elapsedTicks s.ticks start))

/-- `TCMP start, dur` (41_timebase R87). -/
def execTcmp (start dur : BitVec 32) (s : State) : StepOutcome :=
  .next (s.respond (BitVec.ofBool (durationReached s.ticks start dur)))

end Sys2Proof.Machine
end

