-- ==== Sys2Proof/Machine/Dispatch.lean ====
section
/-! DEFINITION. One arm per command (spec/30_encoding.md R65). -/

namespace Sys2Proof.Machine

def exec (i : Instr) (s : State) : Host.Outcome State Fault Refusal :=
  match i with
  | .rdreg n => Sys2Proof.Machine.execRdreg n s
  | .tbArm => Sys2Proof.Machine.execTbArm s
  | .tbIrqOn => Sys2Proof.Machine.execTbIrqOn s
  | .tbIrqOff => Sys2Proof.Machine.execTbIrqOff s
  | .gieOn => Sys2Proof.Machine.execGieOn s
  | .gieOff => Sys2Proof.Machine.execGieOff s
  | .millis => Sys2Proof.Machine.execMillis s
  | .elapsed start => Sys2Proof.Machine.execElapsed start s
  | .tcmp start dur => Sys2Proof.Machine.execTcmp start dur s
  | .adcSelect ch => Sys2Proof.Machine.execAdcSelect ch s
  | .adcJustR => Sys2Proof.Machine.execAdcJustR s
  | .adcJustL => Sys2Proof.Machine.execAdcJustL s
  | .adcGo => Sys2Proof.Machine.execAdcGo s
  | .adcPoll => Sys2Proof.Machine.execAdcPoll s
  | .adcResult => Sys2Proof.Machine.execAdcResult s
  | .adcResultHi => Sys2Proof.Machine.execAdcResultHi s
  | .adcOff => Sys2Proof.Machine.execAdcOff s
  | .pwmStart freq => Sys2Proof.Machine.execPwmStart freq s
  | .pwmEnable => Sys2Proof.Machine.execPwmEnable s
  | .pwmDisable => Sys2Proof.Machine.execPwmDisable s
  | .pwmStop => Sys2Proof.Machine.execPwmStop s

end Sys2Proof.Machine
end

