-- ==== Sys2Proof/Machine/Command.lean ====
section
/-! DEFINITION. Accepting one command word on the command port (spec/10_state.md R26, spec/00_scope.md R8), and taking
one offered event. -/

namespace Sys2Proof.Machine

/-- The foreground agent's step: the word's command runs, or, where no row of 30_encoding R65 accepts the word, it
raises `IllegalCommand` (R66). -/
def acceptCommand (w : CommandWord) (s : State) : StepOutcome :=
  match decode w with
  | .command i => exec i s
  | .illegal _ => .next s.raiseIllegalCommand

/-- One offered event (00_scope R8). -/
def takeEvent (e : Event) (s : State) : StepOutcome :=
  match e with
  | .cmd w => acceptCommand w s
  | .hw h => .next (hardwareStep h s)

/-- Offer a command word as the next event. -/
def State.offerCommand (s : State) (w : CommandWord) : State := { s with events := .cmd w :: s.events }

end Sys2Proof.Machine
end

