-- ==== Sys2Proof/Machine/Step.lean ====
section
/-! DEFINITION. One step of the block: the oldest event the environment offers (spec/00_scope.md R8,
spec/20_memory.md R46). With nothing offered no agent steps and no register changes (Log 1). -/

namespace Sys2Proof.Machine

def step (s : State) : Host.Outcome State Fault Refusal :=
  match s.events with
  | [] => .next s.rspIdle
  | e :: rest => takeEvent e { s with events := rest }

/-- `s` with the command word of `w` first in line, where `step` takes its next event. -/
def State.withFetchWord (s : State) (nbits w : Nat) : State := s.offerCommand (tableWord nbits w)

end Sys2Proof.Machine
end

