-- ==== Sys2Proof/Machine/HostProgram.lean ====
section
/-! DEFINITION. The foreground agent's programs (spec/45_host_routines.md R150 to R152): statements, host variables,
the pin BUZ, and one host action at a time, interleaved with the other agents' steps. Host state is not state of the
block (R151, spec/10_state.md R30), so it stands beside `State`, in `System`. -/

namespace Sys2Proof.Machine

/-- The variables and arguments of the routines of 45_host_routines. -/
inductive HostVar where
  | us | ms | i | channel | busy | r | t | t0 | done | freqHz | durationMs | half | h
  | value | inMin | inMax | outMin | outMax | num
  deriving DecidableEq, Repr

/-- The thirteen routines (30_encoding R69). -/
inductive Routine where
  | millis | delayUs | delayMs | selectChannel | read | read8bit | readChannel
  | start | enable | disable | stop | playFreq | map
  deriving DecidableEq, Repr

/-- Expressions over mathematical integers (45_host_routines R150, 00_scope R7). -/
inductive HostExpr where
  | lit (n : Int)
  | var (v : HostVar)
  /-- The level of BUZ, 0 or 1 (R151). -/
  | buz
  | add (a b : HostExpr)
  | sub (a b : HostExpr)
  | mul (a b : HostExpr)
  /-- `x div y`, floor. -/
  | div (a b : HostExpr)
  /-- `tdiv(x, y)`, truncated toward zero. -/
  | tdiv (a b : HostExpr)
  /-- `x[n-1:0]`. -/
  | low (n : Nat) (a : HostExpr)
  deriving DecidableEq, Repr

/-- Conditions. -/
inductive HostCond where
  | eq (a b : HostExpr)
  | le (a b : HostExpr)
  | lt (a b : HostExpr)
  | not (c : HostCond)
  | and (c d : HostCond)
  deriving DecidableEq, Repr

/-- A command with its operands as expressions (30_encoding R68). -/
inductive HostCmd where
  | fixed (i : Instr)
  | rdreg (n : HostExpr)
  | elapsed (start : HostExpr)
  | tcmp (start dur : HostExpr)
  | adcSelect (ch : HostExpr)
  | pwmStart (freq : HostExpr)
  deriving DecidableEq, Repr

/-- Statements (45_host_routines R150). `draw16` is the `draw h : u16` of R165, `call` runs another routine. -/
inductive Stmt where
  | skip
  | seq (a b : Stmt)
  | cmd (c : HostCmd) (dst : Option HostVar)
  | assign (v : HostVar) (e : HostExpr)
  | draw16 (v : HostVar)
  | setBuz (e : HostExpr)
  | pause (e : HostExpr)
  | ite (c : HostCond) (a b : Stmt)
  | while (c : HostCond) (body : Stmt)
  | repeatUntil (body : Stmt) (c : HostCond)
  | require (c : HostCond)
  | call (r : Routine) (args : List HostExpr) (dst : Option HostVar)
  | ret (e : Option HostExpr)
  deriving DecidableEq, Repr

/-- A running routine: its variables, the statements still to do, and the variable of its CALLER that takes the
value it returns. -/
structure Frame where
  vars : List (HostVar × Int)
  code : List Stmt
  dst : Option HostVar
  deriving DecidableEq, Repr

/-- The host: the running routine, its callers, the pin BUZ (R151), and, once the outermost routine has returned, its
value. -/
structure HostState where
  frame : Frame
  callers : List Frame
  buz : Bool
  returned : Option (Option Int)
  deriving DecidableEq, Repr

/-- The block and its foreground agent. -/
structure System where
  ttb : State
  host : HostState
  deriving DecidableEq, Repr

/-! Variables. -/

/-- The value of a variable; 0 for one not assigned yet, which no routine reads (DESIGN CHOICE, Log 11). -/
def getVar (vars : List (HostVar × Int)) (v : HostVar) : Int := (vars.lookup v).getD 0

def setVar (vars : List (HostVar × Int)) (v : HostVar) (x : Int) : List (HostVar × Int) :=
  (v, x) :: vars.filter (fun p => p.1 ≠ v)

def setDst (vars : List (HostVar × Int)) (dst : Option HostVar) (x : Int) : List (HostVar × Int) :=
  match dst with
  | some v => setVar vars v x
  | none => vars

/-! Evaluation. -/

/-- The value of an expression, over mathematical integers. Beyond what the spec defines the value is the model's own
(DESIGN CHOICE, Log 11): 00_scope R7 gives `x div y` only for `x >= 0`, `y > 0` and `tdiv(x, y)` only for `y != 0`; here
`div` is the floor for every sign, both give 0 for a zero divisor, and `low` of a negative number is its two's
complement. No routine of 45_host_routines reaches any of these. -/
def evalExpr (vars : List (HostVar × Int)) (buz : Bool) : HostExpr → Int
  | .lit n => n
  | .var v => getVar vars v
  | .buz => if buz then 1 else 0
  | .add a b => evalExpr vars buz a + evalExpr vars buz b
  | .sub a b => evalExpr vars buz a - evalExpr vars buz b
  | .mul a b => evalExpr vars buz a * evalExpr vars buz b
  | .div a b => Int.fdiv (evalExpr vars buz a) (evalExpr vars buz b)
  | .tdiv a b => Int.tdiv (evalExpr vars buz a) (evalExpr vars buz b)
  | .low n a => Int.emod (evalExpr vars buz a) (2 ^ n)

def evalCond (vars : List (HostVar × Int)) (buz : Bool) : HostCond → Bool
  | .eq a b => decide (evalExpr vars buz a = evalExpr vars buz b)
  | .le a b => decide (evalExpr vars buz a ≤ evalExpr vars buz b)
  | .lt a b => decide (evalExpr vars buz a < evalExpr vars buz b)
  | .not c => !evalCond vars buz c
  | .and c d => evalCond vars buz c && evalCond vars buz d

/-- The command with its operand values in their fields (30_encoding R63), a value that does not fit taken modulo the
field's width (DESIGN CHOICE, Log 11). -/
def HostCmd.instr (vars : List (HostVar × Int)) (buz : Bool) : HostCmd → Instr
  | .fixed i => i
  | .rdreg n => .rdreg (BitVec.ofInt 4 (evalExpr vars buz n))
  | .elapsed start => .elapsed (BitVec.ofInt 32 (evalExpr vars buz start))
  | .tcmp start dur => .tcmp (BitVec.ofInt 32 (evalExpr vars buz start)) (BitVec.ofInt 32 (evalExpr vars buz dur))
  | .adcSelect ch => .adcSelect (BitVec.ofInt 8 (evalExpr vars buz ch))
  | .pwmStart freq => .pwmStart (BitVec.ofInt 16 (evalExpr vars buz freq))

/-! One host action. -/

def System.withVars (y : System) (vars : List (HostVar × Int)) : System :=
  { y with host := { y.host with frame := { y.host.frame with vars := vars } } }

def System.withCode (y : System) (code : List Stmt) : System :=
  { y with host := { y.host with frame := { y.host.frame with code := code } } }

/-- Return `x` from the running routine: to its caller's variable, or as the outermost value. A caller's variable takes
0 from a routine that returns nothing, which no routine asks for (DESIGN CHOICE, Log 11). -/
def System.returnValue (y : System) (x : Option Int) : System :=
  match y.host.callers with
  | [] => { y with host := { y.host with frame := { y.host.frame with code := [] }, returned := some x } }
  | f :: fs =>
    { y with host := { y.host with
        frame := { f with vars := setDst f.vars y.host.frame.dst (x.getD 0) }, callers := fs } }

/-- Issue one command: exactly one `FG` step of the block (R150); an illegal command refuses the program that issued it
(60_exceptions R181). -/
def System.issue (y : System) (c : HostCmd) (dst : Option HostVar) : Host.Outcome System Fault Refusal :=
  match step (y.ttb.offerCommand (encode (c.instr y.host.frame.vars y.host.buz))) with
  | .next t =>
    match t.rsp with
    | some ⟨true, _⟩ => .refused .illegalCommandIssued
    | some ⟨false, d⟩ => .next ({ y with ttb := t }.withVars (setDst y.host.frame.vars dst d.toNat))
    | none => .next { y with ttb := t }
  | .fault f => .fault f
  | .refused r => .refused r

/-- The parameters of each routine, in order (45_host_routines R153 to R166). -/
def Routine.params : Routine → List HostVar
  | .millis | .read | .read8bit | .enable | .disable | .stop => []
  | .delayUs => [.us]
  | .delayMs => [.ms]
  | .selectChannel | .readChannel => [.channel]
  | .start => [.freqHz]
  | .playFreq => [.freqHz, .durationMs]
  | .map => [.value, .inMin, .inMax, .outMin, .outMax]

end Sys2Proof.Machine
end

