-- ==== Sys2Proof/Machine/HostRoutines.lean ====
section
/-! DEFINITION. The thirteen host routines (spec/45_host_routines.md R153 to R166, spec/30_encoding.md R69) as host
programs, one action of the host at a time, runs of a system under a schedule, and the pure function of `map` (R166). -/

namespace Sys2Proof.Machine

/-- A sequence of statements. -/
def Stmt.block : List Stmt → Stmt
  | [] => .skip
  | [a] => a
  | a :: rest => .seq a (Stmt.block rest)

/-- The body of each routine (R153 to R166). -/
def Routine.body (c : Config) : Routine → Stmt
  | .millis => .block [.cmd (.fixed .millis) (some .t), .ret (some (.var .t))]
  | .delayUs => .block [.ite (.le (.var .us) (.lit 1)) (.ret none) .skip, .pause (.var .us), .ret none]
  | .delayMs => .block
      [ .assign .i (.lit 0),
        .while (.lt (.var .i) (.var .ms)) (.block
          [.call .delayUs [.lit c.delayMsInnerUs] none, .assign .i (.add (.var .i) (.lit 1))]),
        .ret none ]
  | .selectChannel => .block [.cmd (.adcSelect (.var .channel)) none, .ret none]
  | .read => .block
      [ .cmd (.fixed .adcJustR) none,
        .cmd (.fixed .adcGo) none,
        .repeatUntil (.cmd (.fixed .adcPoll) (some .busy)) (.eq (.var .busy) (.lit 0)),
        .cmd (.fixed .adcResult) (some .r),
        .ret (some (.low 16 (.var .r))) ]
  | .read8bit => .block
      [ .cmd (.fixed .adcJustL) none,
        .cmd (.fixed .adcGo) none,
        .repeatUntil (.cmd (.fixed .adcPoll) (some .busy)) (.eq (.var .busy) (.lit 0)),
        .cmd (.fixed .adcResultHi) (some .r),
        .ret (some (.low 8 (.var .r))) ]
  | .readChannel => .block
      [ .call .selectChannel [.var .channel] none,
        .call .delayUs [.lit settleUs] none,
        .call .read [] (some .r),
        .cmd (.fixed .adcOff) none,
        .ret (some (.var .r)) ]
  | .start => .block [.cmd (.pwmStart (.var .freqHz)) none, .ret none]
  | .enable => .block [.cmd (.fixed .pwmEnable) none, .ret none]
  | .disable => .block [.cmd (.fixed .pwmDisable) none, .ret none]
  | .stop => .block [.cmd (.fixed .pwmStop) none, .ret none]
  | .playFreq => .block
      [ .require (.not (.eq (.var .freqHz) (.lit 0))),
        .assign .half (.sub (.div (.lit toneHalfNum) (.var .freqHz)) (.lit toneOverheadUs)),
        .ite (.and (.le (.lit 0) (.var .half)) (.le (.var .half) (.lit 65535)))
          (.assign .h (.var .half)) (.draw16 .h),
        .cmd (.fixed .millis) (some .t0),
        .cmd (.tcmp (.var .t0) (.var .durationMs)) (some .done),
        .while (.eq (.var .done) (.lit 0)) (.block
          [ .setBuz (.sub (.lit 1) .buz),
            .call .delayUs [.var .h] none,
            .cmd (.tcmp (.var .t0) (.var .durationMs)) (some .done) ]),
        .setBuz (.lit 0),
        .ret none ]
  | .map => .block
      [ .require (.not (.eq (.var .inMax) (.var .inMin))),
        .assign .num (.mul (.sub (.var .value) (.var .inMin)) (.sub (.var .outMax) (.var .outMin))),
        .assign .r (.add (.tdiv (.var .num) (.sub (.var .inMax) (.var .inMin))) (.var .outMin)),
        .require (.and (.le (.lit (-32768)) (.var .r)) (.le (.var .r) (.lit 32767))),
        .ret (some (.var .r)) ]

/-- Start a routine with its arguments, in a frame of its own. -/
def Routine.frame (c : Config) (rt : Routine) (args : List Int) (dst : Option HostVar) : Frame :=
  { vars := rt.params.zip args, code := [rt.body c], dst := dst }

/-- The foreground agent calls a routine on the block `s`, with BUZ at any level (R151). -/
def Routine.launch (rt : Routine) (args : List Int) (s : State) (buz : Bool) : System :=
  { ttb := s, host := { frame := rt.frame s.cfg args none, callers := [], buz := buz, returned := none } }

/-- One host action: one statement of the running routine (R150). Statements other than commands change nothing of the
block; `pause` is a no-op in the untimed model; `draw` is the free u16 of R165. The model's own (DESIGN CHOICE, Log 11):
`BUZ := expr` asserts BUZ for every value but 0 (R151 gives BUZ one bit, and the routines only 0 and 1), a routine whose
statements run out returns without a value, and a host that has returned does nothing. -/
def System.hostStep (draw : BitVec 16) (y : System) : Host.Outcome System Fault Refusal :=
  let vars := y.host.frame.vars
  let buz := y.host.buz
  match y.host.returned with
  | some _ => .next y
  | none =>
    match y.host.frame.code with
    | [] => .next (y.returnValue none)
    | .skip :: k => .next (y.withCode k)
    | .seq a b :: k => .next (y.withCode (a :: b :: k))
    | .cmd c dst :: k => (y.withCode k).issue c dst
    | .assign v e :: k => .next ((y.withCode k).withVars (setVar vars v (evalExpr vars buz e)))
    | .draw16 v :: k => .next ((y.withCode k).withVars (setVar vars v draw.toNat))
    | .setBuz e :: k =>
      let z := y.withCode k
      .next { z with host := { z.host with buz := decide (evalExpr vars buz e ≠ 0) } }
    | .pause _ :: k => .next (y.withCode k)
    | .ite c a b :: k => .next (y.withCode ((if evalCond vars buz c then a else b) :: k))
    | .while c body :: k => .next (y.withCode (if evalCond vars buz c then body :: .while c body :: k else k))
    | .repeatUntil body c :: k => .next (y.withCode (body :: .ite c .skip (.repeatUntil body c) :: k))
    | .require c :: k => if evalCond vars buz c then .next (y.withCode k) else .refused .requireFailed
    | .call rt args dst :: k =>
      .next { y with host := { y.host with
        frame := rt.frame y.ttb.cfg (args.map (evalExpr vars buz)) dst,
        callers := { y.host.frame with code := k } :: y.host.callers } }
    | .ret e :: _ => .next (y.returnValue (e.map (evalExpr vars buz)))

/-- One entry of a schedule: the host acts, or another agent's step falls there (R150). -/
inductive SysEvent where
  | host (draw : BitVec 16)
  | hw (e : HwEvent)
  deriving DecidableEq, Repr

/-- One step of the system. -/
def System.step (y : System) : SysEvent → Host.Outcome System Fault Refusal
  | .host draw => y.hostStep draw
  | .hw e => .next { y with ttb := hardwareStep e y.ttb }

/-- A run under a schedule, to its end or the first refusal. -/
def System.run : List SysEvent → System → Host.Outcome System Fault Refusal
  | [], y => .next y
  | e :: es, y =>
    match y.step e with
    | .next z => z.run es
    | .fault f => .fault f
    | .refused r => .refused r

/-- `map` as a pure function (R166): exact product, division truncated toward zero, refused where the divisor is 0 or
the result leaves i16. -/
def rangeMap (value inMin inMax outMin outMax : BitVec 16) : Option (BitVec 16) :=
  if inMax = inMin then none
  else
    let num := (value.toInt - inMin.toInt) * (outMax.toInt - outMin.toInt)
    let r := Int.tdiv num (inMax.toInt - inMin.toInt) + outMin.toInt
    if -32768 ≤ r ∧ r ≤ 32767 then some (BitVec.ofInt 16 r) else none

/-- The half-period of the Tone Player before it is fitted into a u16 (R165). -/
def toneHalf (freqHz : Nat) : Int := (toneHalfNum / freqHz : Nat) - (toneOverheadUs : Int)

end Sys2Proof.Machine
end

