-- ==== Sys2Proof/Safety.lean ====
section
/-! DEFINITION. What claims about runs are stated with: the invariant of the state, booted states
(spec/70_reset_and_hazards.md R214), counts of agent steps in a run, the observation of a run (R227), infinite
executions and the named premises of spec/60_exceptions.md R193 and spec/45_host_routines.md R155. -/

namespace Sys2Proof.Machine

/-! The invariant. -/

/-- The configuration is well-formed (00_scope R5), TMR fits its width (10_state R14), TRELOAD is `TICK_RELOAD`
(R15, R31(a)), and the bits of ADCTL outside ON, GO, FMT and the mask read 0 (R17). -/
def State.Inv (s : State) : Prop :=
  s.cfg.WellFormed
    ∧ s.tmr < 2 ^ s.cfg.tmrW
    ∧ s.treload = s.cfg.tickReload
    ∧ s.adctl &&& ~~~(0x83#8 ||| s.cfg.adcChsMask) = 0#8

/-- The duty register is the one the period register gives (10_state R31(b)). -/
def State.DutyTracksPeriod (s : State) : Prop := s.pwmduty.toNat = (s.pwmper.toNat + 1) / 2

/-! Booting (70_reset_and_hazards R214). `OscStable` is a premise about the platform, not state of the block. -/

def State.Booted (oscStable : Prop) (s : State) : Prop := s.ton = true ∧ oscStable

def State.Unmasked (s : State) : Prop := s.tie = true ∧ s.gie = true

/-! Runs. -/

/-- `n` steps of the machine reach `t`. -/
def Reaches (n : Nat) (s t : State) : Prop := Sys2Proof.core.run n s = .next t

/-- Reachable from a power-on with a well-formed configuration, any reset draws and any offered events (R8). -/
def State.Reachable (t : State) : Prop :=
  ∃ c d es n s, State.powerOn c d es = .next s ∧ Reaches n s t

/-- The agent step that happens next: the one offered first, where it is enabled. -/
def State.nextAgent (s : State) : Option HwEvent :=
  match s.events with
  | .hw e :: _ => if e.enabled s then some e else none
  | _ => none

/-- The command that runs next: what the word offered first decodes to. -/
def State.nextCommand (s : State) : Option Instr :=
  match s.events with
  | .cmd w :: _ => match decode w with | .command i => some i | .illegal _ => none
  | _ => none

/-- The next step is a reset. -/
def State.resetsNext (s : State) : Prop := ∃ d, s.nextAgent = some (.reset d)

/-- The next step of `s` is an agent step that `p` picks out, taken. -/
def State.stepTaken (p : HwEvent → Bool) (s : State) : Bool := s.nextAgent.any p

/-- How many of the first `n` steps from `s` are agent steps that `p` picks out, taken. -/
def countTaken (p : HwEvent → Bool) : Nat → State → Nat
  | 0, _ => 0
  | n + 1, s =>
    (if s.stepTaken p then 1 else 0) +
      match Machine.step s with
      | .next t => countTaken p n t
      | .fault _ => 0
      | .refused _ => 0

def HwEvent.isTickIsr : HwEvent → Bool
  | .tickIsr => true
  | .tmrCount | .adcDone _ | .pwmCount | .reset _ => false

def HwEvent.isAdcDone : HwEvent → Bool
  | .adcDone _ => true
  | .tmrCount | .tickIsr | .pwmCount | .reset _ => false

def HwEvent.isReset : HwEvent → Bool
  | .reset _ => true
  | .tmrCount | .tickIsr | .adcDone _ | .pwmCount => false

def Event.isReset : Event → Bool
  | .hw e => e.isReset
  | .cmd _ => false

/-- The first `n` offered events hold no reset. -/
def State.noReset (n : Nat) (s : State) : Prop := ∀ e ∈ s.events.take n, e.isReset = false

/-- The first `n` offered events hold no word of a command that `p` picks out. -/
def State.noCommand (p : Instr → Bool) (n : Nat) (s : State) : Prop :=
  ∀ w i, .cmd w ∈ s.events.take n → decode w = .command i → p i = false

/-- The samples of the `ADC_DONE` steps taken among the first `n`, oldest first. -/
def drawnSamples : Nat → State → List (BitVec 10)
  | 0, _ => []
  | n + 1, s =>
    (match s.nextAgent with | some (.adcDone x) => [x] | _ => []) ++
      match Machine.step s with
      | .next t => drawnSamples n t
      | .fault _ => []
      | .refused _ => []

/-- The observation of a run (70_reset_and_hazards R227): the responses of its commands, in order. -/
def responses : Nat → State → List Response
  | 0, _ => []
  | n + 1, s =>
    match Machine.step s with
    | .next t => t.rsp.toList ++ responses n t
    | .fault _ => []
    | .refused _ => []

/-! Commands as words. -/

/-- Every word with opcode `op`, whatever its operand fields, when it is offered: `legal a b` is the command it runs,
and where that is `none` the step raises `IllegalCommand`, changing no register (60_exceptions R181). -/
def WordsOf (op : BitVec 8) (legal : BitVec 32 → BitVec 32 → Option Instr) : Prop :=
  ∀ (a b : BitVec 32) (s : State) (rest : List Event), s.events = .cmd (mkCommand op a b) :: rest →
    Machine.step s =
      match legal a b with
      | some i => exec i { s with events := rest }
      | none => .next { s with events := rest, rsp := some ⟨true, 0⟩ }

/-- The words of a format N command: both operand fields must be 0 (30_encoding R62). -/
def plainWords (i : Instr) (a b : BitVec 32) : Option Instr := if a = 0 ∧ b = 0 then some i else none

/-! The three units, for claims that they do not interfere. -/

/-- The two states agree on the timebase registers (10_state R13 to R16). -/
def SameTimebase (s t : State) : Prop :=
  s.ticks = t.ticks ∧ s.tmr = t.tmr ∧ s.tbctl = t.tbctl ∧ s.treload = t.treload

/-- The two states agree on the Analog Sampler's registers (10_state R17, R18). -/
def SameSampler (s t : State) : Prop := s.adctl = t.adctl ∧ s.adsamp = t.adsamp

/-- The two states agree on the Waveform Generator's registers (10_state R19 to R22). -/
def SameGenerator (s t : State) : Prop :=
  s.pwmctl = t.pwmctl ∧ s.pwmper = t.pwmper ∧ s.pwmduty = t.pwmduty ∧ s.pwmtmr = t.pwmtmr

/-! Infinite executions and fairness (60_exceptions R193). -/

/-- An infinite execution: at each moment one event is offered and taken (00_scope R8). -/
structure Execution where
  state : Nat → State
  event : Nat → Event
  moves : ∀ n, takeEvent (event n) (state n) = .next (state (n + 1))

/-- At moment `n` the agent step happens and is enabled. -/
def Execution.occurs (x : Execution) (p : HwEvent → Bool) (n : Nat) : Prop :=
  ∃ e, x.event n = .hw e ∧ p e = true ∧ e.enabled (x.state n) = true

/-- `FairTimer`: if TON is 1 from some step on, `TMR_COUNT` steps infinitely often. -/
def Execution.FairTimer (x : Execution) : Prop :=
  (∃ n₀, ∀ n, n₀ ≤ n → (x.state n).ton = true) →
    ∀ m, ∃ n, m ≤ n ∧ x.occurs (fun e => e == .tmrCount) n

/-- `FairIsr`: if `TICK_ISR` is enabled continuously from some step on, it steps. -/
def Execution.FairIsr (x : Execution) : Prop :=
  ∀ n₀, (∀ n, n₀ ≤ n → HwEvent.tickIsr.enabled (x.state n) = true) → ∃ n, n₀ ≤ n ∧ x.occurs HwEvent.isTickIsr n

/-- `FairAdc`: if `ADC_DONE` is enabled continuously from some step on, it steps. -/
def Execution.FairAdc (x : Execution) : Prop :=
  ∀ n₀, (∀ n, n₀ ≤ n → (HwEvent.adcDone 0).enabled (x.state n) = true) → ∃ n, n₀ ≤ n ∧ x.occurs HwEvent.isAdcDone n

/-- `FairPwm`: if PTON is 1 from some step on, `PWM_COUNT` steps infinitely often. -/
def Execution.FairPwm (x : Execution) : Prop :=
  (∃ n₀, ∀ n, n₀ ≤ n → (x.state n).pton = true) →
    ∀ m, ∃ n, m ≤ n ∧ x.occurs (fun e => e == .pwmCount) n

/-- `PromptIsr`: no overflowing `TMR_COUNT` step occurs in a state where `TICK_ISR` is enabled. -/
def Execution.PromptIsr (x : Execution) : Prop :=
  ∀ n, x.occurs (fun e => e == .tmrCount) n → (x.state n).tmr = 2 ^ (x.state n).cfg.tmrW - 1 →
    HwEvent.tickIsr.enabled (x.state n) = false

/-! Premises about the host layer. -/

/-- How many `TICK_ISR` steps a schedule takes from `y` on, until the outermost routine returns: none after that. -/
def System.ticksUntilReturn : List SysEvent → System → Nat
  | [], _ => 0
  | e :: es, y =>
    match y.host.returned with
    | some _ => 0
    | none =>
      (match e with
        | .hw h => if h.isTickIsr && h.enabled y.ttb then 1 else 0
        | .host _ => 0) +
        match y.step e with
        | .next z => System.ticksUntilReturn es z
        | .fault _ => 0
        | .refused _ => 0

/-- The block after the agents' steps of a schedule alone, the host's actions left out. -/
def agentsOnly : List SysEvent → State → State
  | [], s => s
  | .hw e :: es, s => agentsOnly es (hardwareStep e s)
  | .host _ :: es, s => agentsOnly es s

/-- `DelayTicks` (45_host_routines R155): where `s` is booted (70_reset_and_hazards R214) and `delay_ms(ms)`, called in
`s`, returns under the schedule, at least `ms - DELAY_TICK_TOL` handler steps occur between its entry and its return. A
premise claims may take, not a theorem. -/
def DelayTicks (oscStable : Prop) (schedule : List SysEvent) (ms : BitVec 16) (s : State) : Prop :=
  s.Booted oscStable → ∀ buz z, (Routine.launch .delayMs [ms.toNat] s buz).run schedule = .next z →
    z.host.returned ≠ none →
      ms.toNat - s.cfg.delayTickTol ≤ System.ticksUntilReturn schedule (Routine.launch .delayMs [ms.toNat] s buz)

end Sys2Proof.Machine
end

