-- ==== Sys2Proof/Certificates/Slice0/Obligations.lean ====
section
/-! DEFINITION. The statements for the provers. The block has no memory (spec/20_memory.md R40), so a frame here is
every register, the response and the model's own fields: a statement that gives the whole next state as `s` with some
fields replaced says at once that every other field is unchanged. -/

open Sys2Proof Sys2Proof.Machine

/-! ## Encoding -/

/-- Decoding the word of a well-formed command gives the command back, at every operand value (30_encoding R61 to R65). -/
def Obligations.DecodeOfEncodeIsTheCommand : Prop :=
  ∀ i : Instr, i.wellFormed = true → decode (encode i) = .command i

/-- Every legal word is the word its command assembles to, and that command is well-formed (30_encoding R63, R66, R68). -/
def Obligations.LegalWordIsItsCommandsEncoding : Prop :=
  ∀ (w : CommandWord) (i : Instr), decode w = .command i → i.wellFormed = true ∧ encode i = w

/-- A word is the command of a row of R65's table iff the row's mask, match and extra condition accept it. -/
def Obligations.DecoderFollowsMaskAndMatchTable : Prop :=
  ∀ (w : CommandWord) (m : String),
    (∃ r ∈ opcodeTable, r.mnemonic = m ∧ r.accepts w = true) ↔ ∃ i, decode w = .command i ∧ i.mnemonic = m

/-- 30_encoding R66: a word is illegal exactly when (a) its opcode is unassigned, (b) it is assigned and a reserved bit
of its format is 1, or (c) it is `RDREG` of 0xB to 0xF; an illegal command answers an error and changes nothing; the
all-zero and the all-ones word are illegal. -/
def Obligations.IllegalWordsAreExactlyThoseListed : Prop :=
  (∀ w : CommandWord,
    (∃ r, decode w = .illegal r) ↔
      (let op := (cmdOp w).toNat
       let a := (cmdA w).toNat
       let b := (cmdB w).toNat
       (op = 0x00 ∨ (0x02 ≤ op ∧ op ≤ 0x0F) ∨ (0x18 ≤ op ∧ op ≤ 0x1F) ∨ (0x28 ≤ op ∧ op ≤ 0x2F) ∨ 0x34 ≤ op)
       ∨ (op = 0x01 ∧ (16 ≤ a ∨ b ≠ 0))
       ∨ (op = 0x16 ∧ b ≠ 0)
       ∨ (op = 0x20 ∧ (256 ≤ a ∨ b ≠ 0))
       ∨ (op = 0x30 ∧ (65536 ≤ a ∨ b ≠ 0))
       ∨ (((0x10 ≤ op ∧ op ≤ 0x15) ∨ (0x21 ≤ op ∧ op ≤ 0x27) ∨ (0x31 ≤ op ∧ op ≤ 0x33)) ∧ (a ≠ 0 ∨ b ≠ 0))
       ∨ (op = 0x01 ∧ 0xB ≤ a % 16)))
  ∧ (∀ (w : CommandWord) (r : IllegalReason) (s : State) (rest : List Event), decode w = .illegal r →
      s.events = .cmd w :: rest → step s = .next { s with events := rest, rsp := some ⟨true, 0⟩ })
  ∧ (∃ r, decode 0 = .illegal r) ∧ (∃ r, decode (BitVec.allOnes 72) = .illegal r)

/-- Words written out from the table of R65, one or more of every family, decode to what they stand for. -/
def Obligations.SampleWordsDecodeAsTabled : Prop :=
  decode 0x010000000A00000000 = .command (.rdreg 0xA)
    ∧ decode 0x100000000000000000 = .command .tbArm
    ∧ decode 0x16FFFFFFF000000000 = .command (.elapsed 0xFFFFFFF0)
    ∧ decode 0x17FFFFFFF000000020 = .command (.tcmp 0xFFFFFFF0 32)
    ∧ decode 0x200000009700000000 = .command (.adcSelect 0x97)
    ∧ decode 0x260000000000000000 = .command .adcResultHi
    ∧ decode 0x300000947000000000 = .command (.pwmStart 38000)
    ∧ decode 0x330000000000000000 = .command .pwmStop

/-! ## One step -/

/-- When the word offered first decodes to a command, the step is that command's meaning on the state with the event
taken; and `withFetchWord` offers the word of a table number so that the next step runs it on the state unchanged. -/
def Obligations.StepRunsTheDecodedCommand : Prop :=
  (∀ (s : State) (w : CommandWord) (rest : List Event) (i : Instr), s.events = .cmd w :: rest →
    decode w = .command i → step s = exec i { s with events := rest })
  ∧ (∀ (s : State) (nbits w : Nat) (i : Instr), decodeTableWord nbits w = some i →
      step (s.withFetchWord nbits w) = exec i s)

/-- 60_exceptions R181: an illegal command answers `rsp_err` = 1 and `rsp_data` = 0, changes no register, and leaves no
trace: the step after it is the step that would have come without it. The host program that issues one is refused. -/
def Obligations.IllegalCommandLeavesNoTrace : Prop :=
  (∀ (s : State) (w : CommandWord) (r : IllegalReason) (rest : List Event), decode w = .illegal r →
    s.events = .cmd w :: rest →
      ∃ t, step s = .next t ∧ t = { s with events := rest, rsp := some ⟨true, 0⟩ }
        ∧ step t = step { s with events := rest })
  ∧ (∀ (y : System) (c : HostCmd) (dst : Option HostVar) (r : IllegalReason),
      decode (encode (c.instr y.host.frame.vars y.host.buz)) = .illegal r →
        y.issue c dst = .refused .illegalCommandIssued)

/-- 10_state R26: every command is accepted and answered in its own step, with an error exactly for an illegal word,
and no other step answers anything. -/
def Obligations.EveryCommandIsAnsweredInItsStep : Prop :=
  (∀ (s : State) (w : CommandWord) (rest : List Event), s.events = .cmd w :: rest →
    ∃ t r, step s = .next t ∧ t.rsp = some r ∧ t.events = rest ∧ (r.err = true ↔ ∃ q, decode w = .illegal q)
      ∧ (r.err = true → r.data = 0))
  ∧ (∀ (s t : State), step s = .next t → (t.rsp.isSome = true ↔ ∃ w rest, s.events = .cmd w :: rest))

/-- 70_reset_and_hazards R227: no step stops the block; each takes the oldest offered event and keeps the configuration. -/
def Obligations.BlockNeverHalts : Prop :=
  ∀ s : State, ∃ t, step s = .next t ∧ t.events = s.events.tail ∧ t.cfg = s.cfg

/-- 20_memory R43: the seven reading commands change no state, and may be repeated with the same answer. -/
def Obligations.ReadingCommandsHaveNoSideEffect : Prop :=
  ∀ (s t : State) (i : Instr),
    ((∃ n, i = .rdreg n) ∨ i = .millis ∨ (∃ a, i = .elapsed a) ∨ (∃ a d, i = .tcmp a d) ∨ i = .adcPoll
      ∨ i = .adcResult ∨ i = .adcResultHi) →
    exec i s = .next t → t = { s with rsp := t.rsp } ∧ exec i t = exec i s

/-! ## The timebase commands -/

/-- 41_timebase R80, with "there is no command that disarms". -/
def Obligations.TbArmStartsTheTimer : Prop :=
  (∀ s : State, exec .tbArm s = .next { s with
      tmr := s.treload, tbctl := (s.tbctl &&& 0b1000#4) ||| 0b0011#4, rsp := some ⟨false, 0⟩ })
  ∧ (∀ (s t : State) (i : Instr), exec i s = .next t → s.ton = true → t.ton = true)
  ∧ WordsOf 0x10 (plainWords .tbArm)

/-- 41_timebase R81 to R84: each writes its one enable bit; unmasking a pending tick enables the handler at once. -/
def Obligations.EnableCommandsWriteTheirBit : Prop :=
  (∀ s : State,
    exec .tbIrqOn s = .next { s with tbctl := s.tbctl ||| 0b0010#4, rsp := some ⟨false, 0⟩ }
    ∧ exec .tbIrqOff s = .next { s with tbctl := s.tbctl &&& 0b1101#4, rsp := some ⟨false, 0⟩ }
    ∧ exec .gieOn s = .next { s with tbctl := s.tbctl ||| 0b1000#4, rsp := some ⟨false, 0⟩ }
    ∧ exec .gieOff s = .next { s with tbctl := s.tbctl &&& 0b0111#4, rsp := some ⟨false, 0⟩ })
  ∧ (∀ s t : State, exec .tbIrqOn s = .next t → HwEvent.tickIsr.enabled t = (s.tif && s.gie))
  ∧ (∀ s t : State, exec .gieOn s = .next t → HwEvent.tickIsr.enabled t = (s.tif && s.tie))
  ∧ WordsOf 0x11 (plainWords .tbIrqOn) ∧ WordsOf 0x12 (plainWords .tbIrqOff)
  ∧ WordsOf 0x13 (plainWords .gieOn) ∧ WordsOf 0x14 (plainWords .gieOff)

/-- 41_timebase R85. -/
def Obligations.MillisReadsTheCounter : Prop :=
  (∀ s : State, exec .millis s = .next { s with rsp := some ⟨false, s.ticks⟩ })
  ∧ (∀ s : State, exec (.rdreg 0) s = exec .millis s)
  ∧ WordsOf 0x15 (plainWords .millis)

/-- 41_timebase R86: the difference modulo 2^32, over the integers. -/
def Obligations.ElapsedSubtractsModuloTheWrap : Prop :=
  (∀ (s : State) (start : BitVec 32), exec (.elapsed start) s = .next { s with
      rsp := some ⟨false, BitVec.ofNat 32 ((s.ticks.toNat + 2 ^ 32 - start.toNat) % 2 ^ 32)⟩ })
  ∧ WordsOf 0x16 (fun a b => if b = 0 then some (.elapsed a) else none)

/-- 41_timebase R87: unsigned `>=` on the difference modulo 2^32; every operand value is legal. -/
def Obligations.TcmpComparesTheElapsedTime : Prop :=
  (∀ (s : State) (start dur : BitVec 32), exec (.tcmp start dur) s = .next { s with
      rsp := some ⟨false,
        if (s.ticks.toNat + 2 ^ 32 - start.toNat) % 2 ^ 32 ≥ dur.toNat then 1 else 0⟩ })
  ∧ WordsOf 0x17 (fun a b => some (.tcmp a b))

/-! ## The Analog Sampler's commands -/

/-- 42_adc R100: the channel-select bits come from `ch`, ON is set, GO and FMT and the other bits are kept. -/
def Obligations.AdcSelectRewritesOnlyTheChannel : Prop :=
  (∀ (s : State) (ch : BitVec 8), exec (.adcSelect ch) s = .next { s with
      adctl := (s.adctl &&& ~~~s.cfg.adcChsMask &&& 0xFE#8) ||| (ch &&& s.cfg.adcChsMask) ||| 0x01#8,
      rsp := some ⟨false, 0⟩ })
  ∧ WordsOf 0x20 (fun a b => if a.toNat < 256 ∧ b = 0 then some (.adcSelect (BitVec.ofNat 8 a.toNat)) else none)

/-- 42_adc R101, R102: the alignment bit, in force at the very next read of ADRES. -/
def Obligations.AdcJustifyWritesTheAlignment : Prop :=
  (∀ s : State,
    exec .adcJustR s = .next { s with adctl := s.adctl &&& 0x7F#8, rsp := some ⟨false, 0⟩ }
    ∧ exec .adcJustL s = .next { s with adctl := s.adctl ||| 0x80#8, rsp := some ⟨false, 0⟩ })
  ∧ (∀ s t : State, exec .adcJustR s = .next t → t.adres.toNat = s.adsamp.toNat)
  ∧ (∀ s t : State, exec .adcJustL s = .next t → t.adres.toNat = s.adsamp.toNat * 64)
  ∧ WordsOf 0x21 (plainWords .adcJustR) ∧ WordsOf 0x22 (plainWords .adcJustL)

/-- 42_adc R103, R107: the trigger and the off command, each its one bit; after either with the converter off,
`ADC_DONE` is not enabled. -/
def Obligations.AdcGoAndOffWriteTheirBit : Prop :=
  (∀ s : State,
    exec .adcGo s = .next { s with adctl := s.adctl ||| 0x02#8, rsp := some ⟨false, 0⟩ }
    ∧ exec .adcOff s = .next { s with adctl := s.adctl &&& 0xFE#8, rsp := some ⟨false, 0⟩ })
  ∧ (∀ (s t : State) (x : BitVec 10), exec .adcGo s = .next t → (HwEvent.adcDone x).enabled t = s.adOn)
  ∧ (∀ (s t : State) (x : BitVec 10), exec .adcOff s = .next t → (HwEvent.adcDone x).enabled t = false)
  ∧ WordsOf 0x23 (plainWords .adcGo) ∧ WordsOf 0x27 (plainWords .adcOff)

/-- 42_adc R104. -/
def Obligations.AdcPollReadsTheTriggerBit : Prop :=
  (∀ s : State, exec .adcPoll s = .next { s with
      rsp := some ⟨false, if s.adctl &&& 0x02#8 = 0 then 0 else 1⟩ })
  ∧ WordsOf 0x24 (plainWords .adcPoll)

/-- 42_adc R105, R106 with the view of 10_state R18: right-justified the sample itself, left-justified the sample times
64; the high byte is bits 15 to 8 of that. -/
def Obligations.AdcResultsReadTheAlignedSample : Prop :=
  (∀ s : State,
    (s.adctl &&& 0x80#8 = 0 →
      exec .adcResult s = .next { s with rsp := some ⟨false, BitVec.ofNat 32 s.adsamp.toNat⟩ }
      ∧ exec .adcResultHi s = .next { s with rsp := some ⟨false, BitVec.ofNat 32 (s.adsamp.toNat / 256)⟩ })
    ∧ (s.adctl &&& 0x80#8 ≠ 0 →
      exec .adcResult s = .next { s with rsp := some ⟨false, BitVec.ofNat 32 (s.adsamp.toNat * 64)⟩ }
      ∧ exec .adcResultHi s = .next { s with rsp := some ⟨false, BitVec.ofNat 32 (s.adsamp.toNat / 4)⟩ }))
  ∧ WordsOf 0x25 (plainWords .adcResult) ∧ WordsOf 0x26 (plainWords .adcResultHi)

/-! ## The Waveform Generator's commands -/

/-- 43_pwm R120 with R121, R122: a zero frequency changes no register; any other writes the period, the duty and both
enables, and leaves PWMTMR. In a well-formed configuration, where the scaler is defined. -/
def Obligations.PwmStartLoadsPeriodAndDuty : Prop :=
  (∀ s : State, exec (.pwmStart 0) s = .next { s with rsp := some ⟨false, 0⟩ })
  ∧ (∀ (s : State) (freq : BitVec 16), s.cfg.WellFormed → freq ≠ 0 →
      ∃ per : Nat, per = min (s.cfg.fOsc / (4 * s.cfg.pwmPrescale * freq.toNat) - 1) 255
        ∧ exec (.pwmStart freq) s = .next { s with
            pwmper := BitVec.ofNat 8 per, pwmduty := BitVec.ofNat 8 ((per + 1) / 2), pwmctl := 0b11#2,
            rsp := some ⟨false, 0⟩ })
  ∧ WordsOf 0x30 (fun a b => if a.toNat < 65536 ∧ b = 0 then some (.pwmStart (BitVec.ofNat 16 a.toNat)) else none)

/-- 43_pwm R124 to R126. After `PWM_DISABLE` and `PWM_STOP` the pin is inactive. -/
def Obligations.PwmGatesWriteTheirBits : Prop :=
  (∀ s : State,
    exec .pwmEnable s = .next { s with pwmctl := s.pwmctl ||| 0b10#2, rsp := some ⟨false, 0⟩ }
    ∧ exec .pwmDisable s = .next { s with pwmctl := s.pwmctl &&& 0b01#2, rsp := some ⟨false, 0⟩ }
    ∧ exec .pwmStop s = .next { s with pwmctl := 0b00#2, rsp := some ⟨false, 0⟩ })
  ∧ (∀ s t : State, exec .pwmDisable s = .next t → t.pwmOut = false)
  ∧ (∀ s t : State, exec .pwmStop s = .next t → t.pwmOut = false ∧ HwEvent.pwmCount.enabled t = false)
  ∧ WordsOf 0x31 (plainWords .pwmEnable) ∧ WordsOf 0x32 (plainWords .pwmDisable)
  ∧ WordsOf 0x33 (plainWords .pwmStop)

/-! ## Inspect -/

/-- 44_inspect R140 with 10_state R28: each register number reads its register or view; a reserved number raises
`IllegalCommand`. TMR and TRELOAD read as their value where it fits the 32-bit response (the spec states no result
where it does not: Log 4), and always answer. -/
def Obligations.RdregReadsEachRegister : Prop :=
  (∀ s : State,
    exec (.rdreg 0x0) s = .next { s with rsp := some ⟨false, s.ticks⟩ }
    ∧ (∃ d, exec (.rdreg 0x1) s = .next { s with rsp := some ⟨false, d⟩ }
        ∧ (s.tmr < 2 ^ 32 → d = BitVec.ofNat 32 s.tmr))
    ∧ exec (.rdreg 0x2) s = .next { s with rsp := some ⟨false, BitVec.ofNat 32 s.tbctl.toNat⟩ }
    ∧ (∃ d, exec (.rdreg 0x3) s = .next { s with rsp := some ⟨false, d⟩ }
        ∧ (s.treload < 2 ^ 32 → d = BitVec.ofNat 32 s.treload))
    ∧ exec (.rdreg 0x4) s = .next { s with rsp := some ⟨false, BitVec.ofNat 32 s.adctl.toNat⟩ }
    ∧ exec (.rdreg 0x5) s = exec .adcResult s
    ∧ exec (.rdreg 0x6) s = .next { s with rsp := some ⟨false, BitVec.ofNat 32 s.pwmctl.toNat⟩ }
    ∧ exec (.rdreg 0x7) s = .next { s with rsp := some ⟨false, BitVec.ofNat 32 s.pwmper.toNat⟩ }
    ∧ exec (.rdreg 0x8) s = .next { s with rsp := some ⟨false, BitVec.ofNat 32 s.pwmduty.toNat⟩ }
    ∧ exec (.rdreg 0x9) s = .next { s with rsp := some ⟨false, BitVec.ofNat 32 s.pwmtmr.toNat⟩ }
    ∧ exec (.rdreg 0xA) s = .next { s with
        rsp := some ⟨false, if s.pwmctl &&& 0b10#2 ≠ 0 ∧ s.pwmtmr.toNat < s.pwmduty.toNat then 1 else 0⟩ })
  ∧ (∀ (s : State) (n : BitVec 4), 0xB ≤ n.toNat →
      exec (.rdreg n) s = .next { s with rsp := some ⟨true, 0⟩ })
  ∧ WordsOf 0x01 (fun a b => if a.toNat < 0xB ∧ b = 0 then some (.rdreg (BitVec.ofNat 4 a.toNat)) else none)

/-! ## The agents -/

/-- 60_exceptions R184: enabled iff TON; at the top of its range TMR wraps to 0 and TIF is set, or stays set; else TMR
counts; nothing depends on TIE or GIE. That an offered step which is not enabled is dropped is the model's choice: Log 7. -/
def Obligations.TmrCountCountsAndOverflows : Prop :=
  ∀ (s : State) (rest : List Event), s.events = .hw .tmrCount :: rest →
    step s = .next
      (if s.tbctl &&& 0b0001#4 = 0 then { s with rsp := none, events := rest }
       else if s.tmr = 2 ^ s.cfg.tmrW - 1 then
        { s with tmr := 0, tbctl := s.tbctl ||| 0b0100#4, rsp := none, events := rest }
       else { s with tmr := s.tmr + 1, rsp := none, events := rest })

/-- 60_exceptions R185, R186: the interrupt is taken iff TIF, TIE and GIE are 1; the handler clears TIF, reloads TMR and
adds 1 to TICKS modulo 2^32, in one step, and writes nothing else. That an offered step which is not enabled is dropped
is the model's choice: Log 7. -/
def Obligations.TickIsrTakesThePendingTick : Prop :=
  ∀ (s : State) (rest : List Event), s.events = .hw .tickIsr :: rest →
    step s = .next
      (if s.tbctl &&& 0b1110#4 = 0b1110#4 then
        { s with
          ticks := BitVec.ofNat 32 ((s.ticks.toNat + 1) % 2 ^ 32), tmr := s.treload,
          tbctl := s.tbctl &&& 0b1011#4, rsp := none, events := rest }
       else { s with rsp := none, events := rest })

/-- 42_adc R108: enabled iff ON and GO; any drawn sample is stored and GO is cleared. That an offered step which is not
enabled is dropped is the model's choice: Log 7. -/
def Obligations.AdcDoneStoresTheDrawnSample : Prop :=
  ∀ (s : State) (x : BitVec 10) (rest : List Event), s.events = .hw (.adcDone x) :: rest →
    step s = .next
      (if s.adctl &&& 0x03#8 = 0x03#8 then
        { s with adsamp := x, adctl := s.adctl &&& 0xFD#8, rsp := none, events := rest }
       else { s with rsp := none, events := rest })

/-- 43_pwm R128: enabled iff PTON; PWMTMR returns to 0 at or above PWMPER and else counts; no command writes PWMTMR;
the output follows by the view of 10_state R23. That an offered step which is not enabled is dropped is the model's
choice: Log 7. -/
def Obligations.PwmCountCountsToThePeriod : Prop :=
  (∀ (s : State) (rest : List Event), s.events = .hw .pwmCount :: rest →
    step s = .next
      (if s.pwmctl &&& 0b01#2 = 0 then { s with rsp := none, events := rest }
       else
        { s with
          pwmtmr := if s.pwmtmr.toNat ≥ s.pwmper.toNat then 0 else BitVec.ofNat 8 (s.pwmtmr.toNat + 1),
          rsp := none, events := rest }))
  ∧ (∀ (s t : State) (i : Instr), exec i s = .next t → t.pwmtmr = s.pwmtmr)
  ∧ (∀ s : State, s.pwmOut = true ↔ s.pwmctl &&& 0b10#2 ≠ 0 ∧ s.pwmtmr.toNat < s.pwmduty.toNat)

/-- 70_reset_and_hazards R210, 10_state R29: from any state and for every draw, what `RESET` leaves. The draws of TMR
and CHS are read as values of their fields. That no response stands after it (`rsp` is `none`) is the model's choice:
Log 5. -/
def Obligations.ResetLeavesTheTabledValues : Prop :=
  ∀ (s : State) (d : ResetDraw) (rest : List Event), s.events = .hw (.reset d) :: rest →
    ∃ t, step s = .next t
      ∧ t.ticks = 0 ∧ t.tmr = d.tmr % 2 ^ s.cfg.tmrW ∧ t.tbctl = 0 ∧ t.treload = s.cfg.tickReload
      ∧ t.adctl = d.chs &&& s.cfg.adcChsMask ∧ t.adsamp = d.adsamp
      ∧ t.pwmctl = 0 ∧ t.pwmper = d.pwmper ∧ t.pwmduty = d.pwmduty ∧ t.pwmtmr = 0 ∧ t.pwmOut = false
      ∧ t.rsp = none ∧ t.events = rest ∧ t.cfg = s.cfg

/-- 00_scope R5: power-on under an ill-formed configuration is refused; under a well-formed one it is a reset with any
draws, from which the invariant holds. -/
def Obligations.PowerOnRefusesIllFormedConfigurations : Prop :=
  (∀ (c : Config) (d : ResetDraw) (es : List Event), ¬ c.WellFormed → State.powerOn c d es = .refused .illFormedConfig)
  ∧ (∀ (c : Config) (d : ResetDraw) (es : List Event), c.WellFormed →
      ∃ s, State.powerOn c d es = .next s ∧ s.Inv ∧ s.cfg = c ∧ s.events = es ∧ s.ticks = 0 ∧ s.tbctl = 0
        ∧ s.pwmctl = 0 ∧ s.pwmtmr = 0 ∧ s.adOn = false ∧ s.adGo = false ∧ s.adFmt = false)

/-- The invariant holds at `State.reset` (the model's choice of a state after reset: Log 2, Log 3), whose registers the
spec gives values for have them (10_state R29). -/
def Obligations.ResetStateMeetsTheInvariant : Prop :=
  State.reset.Inv ∧ State.reset.ticks = 0 ∧ State.reset.tbctl = 0 ∧ State.reset.treload = State.reset.cfg.tickReload
    ∧ State.reset.adOn = false ∧ State.reset.adGo = false ∧ State.reset.adFmt = false ∧ State.reset.pwmctl = 0
    ∧ State.reset.pwmtmr = 0 ∧ State.reset.pwmOut = false

/-! ## Invariants and whole-machine rules -/

/-- Every step keeps the invariant: TMR within its width, TRELOAD the constant `TICK_RELOAD`, the unused bits of ADCTL
0, the configuration well-formed (10_state R14, R15, R17, R31(a), 00_scope R5). -/
def Obligations.EveryStepKeepsTheInvariant : Prop :=
  ∀ s t : State, s.Inv → step s = .next t → t.Inv

/-- 20_memory R47: each register has its listed writers and no others. -/
def Obligations.EachRegisterHasOnlyItsWriters : Prop :=
  ∀ s t : State, step s = .next t →
    (t.ticks ≠ s.ticks → s.nextAgent = some .tickIsr ∨ s.resetsNext)
    ∧ (t.tmr ≠ s.tmr → s.nextAgent = some .tmrCount ∨ s.nextAgent = some .tickIsr ∨ s.nextCommand = some .tbArm
        ∨ s.resetsNext)
    ∧ (t.treload ≠ s.treload → s.resetsNext)
    ∧ (t.adsamp ≠ s.adsamp → (∃ x, s.nextAgent = some (.adcDone x)) ∨ s.resetsNext)
    ∧ (t.pwmper ≠ s.pwmper ∨ t.pwmduty ≠ s.pwmduty →
        (∃ f, f ≠ 0 ∧ s.nextCommand = some (.pwmStart f)) ∨ s.resetsNext)
    ∧ (t.pwmtmr ≠ s.pwmtmr → s.nextAgent = some .pwmCount ∨ s.resetsNext)

/-- 10_state R16, R17, R19: each control bit is set and cleared only by those the tables list, in a well-formed
configuration (the channel mask then holds none of ON, GO, FMT). -/
def Obligations.ControlBitsChangeOnlyAsTabled : Prop :=
  ∀ s t : State, s.cfg.WellFormed → step s = .next t →
    (s.ton = false → t.ton = true → s.nextCommand = some .tbArm)
    ∧ (s.ton = true → t.ton = false → s.resetsNext)
    ∧ (s.tie = false → t.tie = true → s.nextCommand = some .tbArm ∨ s.nextCommand = some .tbIrqOn)
    ∧ (s.tie = true → t.tie = false → s.nextCommand = some .tbIrqOff ∨ s.resetsNext)
    ∧ (s.tif = false → t.tif = true → s.nextAgent = some .tmrCount ∧ s.tmr = 2 ^ s.cfg.tmrW - 1)
    ∧ (s.tif = true → t.tif = false → s.nextAgent = some .tickIsr ∨ s.nextCommand = some .tbArm ∨ s.resetsNext)
    ∧ (s.gie = false → t.gie = true → s.nextCommand = some .gieOn)
    ∧ (s.gie = true → t.gie = false → s.nextCommand = some .gieOff ∨ s.resetsNext)
    ∧ (s.adOn = false → t.adOn = true → ∃ ch, s.nextCommand = some (.adcSelect ch))
    ∧ (s.adOn = true → t.adOn = false → s.nextCommand = some .adcOff ∨ s.resetsNext)
    ∧ (s.adGo = false → t.adGo = true → s.nextCommand = some .adcGo)
    ∧ (s.adGo = true → t.adGo = false → (∃ x, s.nextAgent = some (.adcDone x)) ∨ s.resetsNext)
    ∧ (s.adFmt = false → t.adFmt = true → s.nextCommand = some .adcJustL)
    ∧ (s.adFmt = true → t.adFmt = false → s.nextCommand = some .adcJustR ∨ s.resetsNext)
    ∧ (t.adChs ≠ s.adChs → (∃ ch, s.nextCommand = some (.adcSelect ch)) ∨ s.resetsNext)
    ∧ (s.pton = false → t.pton = true → ∃ f, f ≠ 0 ∧ s.nextCommand = some (.pwmStart f))
    ∧ (s.pton = true → t.pton = false → s.nextCommand = some .pwmStop ∨ s.resetsNext)
    ∧ (s.ocen = false → t.ocen = true →
        (∃ f, f ≠ 0 ∧ s.nextCommand = some (.pwmStart f)) ∨ s.nextCommand = some .pwmEnable)
    ∧ (s.ocen = true → t.ocen = false →
        s.nextCommand = some .pwmDisable ∨ s.nextCommand = some .pwmStop ∨ s.resetsNext)

/-- The three units do not interfere: along a run, what each unit's registers become depends on that unit's registers,
the configuration and the offered events alone (20_memory R46, R47). -/
def Obligations.UnitsDoNotInterfere : Prop :=
  ∀ (n : Nat) (s s' t t' : State), s.events = s'.events → s.cfg = s'.cfg → Reaches n s t → Reaches n s' t' →
    (SameTimebase s s' → SameTimebase t t')
    ∧ (SameSampler s s' → SameSampler t t')
    ∧ (SameGenerator s s' → SameGenerator t t')

/-! ## Ticks -/

/-- 10_state R13, 41_timebase R85, R89: along any run without a reset TICKS advances by exactly the number of handler
steps taken, modulo 2^32, and `ELAPSED` of the earlier counter value answers that number modulo 2^32. -/
def Obligations.CounterAdvancesByHandlerSteps : Prop :=
  ∀ (n : Nat) (s t : State), Reaches n s t → s.noReset n →
    t.ticks = s.ticks + BitVec.ofNat 32 (countTaken HwEvent.isTickIsr n s)
    ∧ exec .millis t = .next { t with
        rsp := some ⟨false, BitVec.ofNat 32 (s.ticks.toNat + countTaken HwEvent.isTickIsr n s)⟩ }
    ∧ exec (.elapsed s.ticks) t = .next { t with
        rsp := some ⟨false, BitVec.ofNat 32 (countTaken HwEvent.isTickIsr n s)⟩ }

/-- 20_memory R48: inside a masking bracket TICKS is constant, whatever else happens: while TIE is 0 until a
`TB_IRQ_ON` or `TB_ARM`, and while GIE is 0 until a `GIE_ON`. -/
def Obligations.MaskedBracketHoldsTheCounter : Prop :=
  ∀ (n : Nat) (s t : State), Reaches n s t → s.noReset n →
    (s.tie = false → s.noCommand (fun i => i == .tbIrqOn || i == .tbArm) n → t.ticks = s.ticks ∧ t.tie = false)
    ∧ (s.gie = false → s.noCommand (fun i => i == .gieOn) n → t.ticks = s.ticks ∧ t.gie = false)

/-- 60_exceptions R191: from a fresh reload, `k` counts with `k` below `N0 = 2^TMR_W - TICK_RELOAD` leave no tick
pending, and exactly `N0` counts make one pending with TMR at 0. -/
def Obligations.TickPeriodIsItsReloadDistance : Prop :=
  ∀ (s : State) (k : Nat) (rest : List Event), s.Inv → s.ton = true → s.tif = false → s.tmr = s.treload →
    k ≤ 2 ^ s.cfg.tmrW - s.cfg.tickReload → s.events = List.replicate k (.hw .tmrCount) ++ rest →
      ∃ t, Reaches k s t ∧ t.ticks = s.ticks ∧ t.events = rest
        ∧ (k < 2 ^ s.cfg.tmrW - s.cfg.tickReload → t.tif = false ∧ t.tmr = s.cfg.tickReload + k)
        ∧ (k = 2 ^ s.cfg.tmrW - s.cfg.tickReload → t.tif = true ∧ t.tmr = 0)

/-- 60_exceptions R184, R191: however many counts `L` follow the overflow before the handler runs, further overflows
among them included, one tick is counted and the timer restarts from the reload: the latency is discarded and second
overflows are lost. -/
def Obligations.LateHandlerCountsOneTick : Prop :=
  ∀ (s : State) (L : Nat) (rest : List Event), s.Inv → s.ton = true → s.tie = true → s.gie = true → s.tif = false →
    s.tmr = s.treload →
    s.events = List.replicate (2 ^ s.cfg.tmrW - s.cfg.tickReload + L) (.hw .tmrCount) ++ .hw .tickIsr :: rest →
      ∃ t, Reaches (2 ^ s.cfg.tmrW - s.cfg.tickReload + L + 1) s t
        ∧ t.ticks = s.ticks + 1 ∧ t.tmr = s.treload ∧ t.tif = false ∧ t.events = rest

/-- 70_reset_and_hazards R214: reset, `TB_ARM`, `GIE_ON` give a booted and unmasked state; it stays booted until the
next reset, and unmasked but for `TB_IRQ_OFF` and `GIE_OFF`. -/
def Obligations.BootSequenceBoots : Prop :=
  ∀ (s : State) (d : ResetDraw) (rest : List Event) (osc : Prop), osc →
    s.events = .hw (.reset d) :: .cmd 0x100000000000000000 :: .cmd 0x130000000000000000 :: rest →
      ∃ t, Reaches 3 s t ∧ t.Booted osc ∧ t.Unmasked ∧ t.tmr = s.cfg.tickReload ∧ t.ticks = 0 ∧ t.events = rest
        ∧ ∀ n u, Reaches n t u → t.noReset n →
            u.Booted osc ∧ (t.noCommand (fun i => i == .tbIrqOff || i == .gieOff) n → u.Unmasked)

/-- 70_reset_and_hazards R211: after reset no agent but `FG` and `RESET` is enabled: whatever hardware steps are
offered, no register changes. That an offered step which is not enabled is dropped is the model's choice: Log 7. -/
def Obligations.BlockIsQuiescentAfterReset : Prop :=
  ∀ (n : Nat) (s t : State) (d : ResetDraw) (rest : List Event), s.cfg.WellFormed →
    s.events = .hw (.reset d) :: rest →
    (∀ e ∈ rest.take n, ∃ h : HwEvent, e = .hw h ∧ h.isReset = false) → Reaches (n + 1) s t →
      t = { s.resetStep d with events := rest.drop n }

/-- Under `FairTimer` and `FairIsr` a booted and unmasked timebase that is not re-armed or reset counts again
(60_exceptions R193, R191): some later step is a handler step, which adds 1 to TICKS. -/
def Obligations.UnmaskedTimebaseKeepsCounting : Prop :=
  ∀ (x : Execution) (n₀ : Nat), x.FairTimer → x.FairIsr → (x.state n₀).Inv →
    (∀ n, n₀ ≤ n → (x.state n).ton = true ∧ (x.state n).tie = true ∧ (x.state n).gie = true) →
    (∀ n, n₀ ≤ n → (x.event n).isReset = false ∧ ∀ w, x.event n = .cmd w → decode w ≠ .command .tbArm) →
      ∃ n, n₀ ≤ n ∧ x.occurs HwEvent.isTickIsr n ∧ (x.state (n + 1)).ticks = (x.state n).ticks + 1

/-! ## Conversions -/

/-- 42_adc R110: a trigger in a state with GO = 0, then anything but a reset or another trigger: once GO reads 0 exactly
one `ADC_DONE` has stepped, and `ADC_RESULT` answers the sample it drew in the alignment in force; while GO reads 1
none has and the earlier sample stands. -/
def Obligations.TriggeredReadDeliversTheDrawnSample : Prop :=
  ∀ (n : Nat) (s t : State) (rest : List Event), s.cfg.WellFormed → s.adGo = false →
    s.events = .cmd 0x230000000000000000 :: rest →
    s.noReset (n + 1) → (∀ w, .cmd w ∈ rest.take n → decode w ≠ .command .adcGo) → Reaches (n + 1) s t →
      (t.adGo = false →
        ∃ x, drawnSamples (n + 1) s = [x]
          ∧ exec .adcResult t = .next { t with
              rsp := some ⟨false, BitVec.ofNat 32 (if t.adFmt then x.toNat * 64 else x.toNat)⟩ }
          ∧ exec .adcResultHi t = .next { t with
              rsp := some ⟨false, BitVec.ofNat 32 (if t.adFmt then x.toNat / 4 else x.toNat / 256)⟩ })
      ∧ (t.adGo = true → drawnSamples (n + 1) s = [] ∧ t.adsamp = s.adsamp)

/-- 42_adc R107, R108, 60_exceptions R197: with the converter off and no `ADC_SELECT`, no conversion completes: the
sample stays readable and a pending conversion stays pending. -/
def Obligations.ConverterOffFreezesTheConversion : Prop :=
  ∀ (n : Nat) (s t : State), s.cfg.WellFormed → Reaches n s t → s.noReset n → s.adOn = false →
    (∀ w ch, .cmd w ∈ s.events.take n → decode w ≠ .command (.adcSelect ch)) →
      t.adsamp = s.adsamp ∧ t.adOn = false ∧ (s.adGo = true → t.adGo = true)
        ∧ countTaken HwEvent.isAdcDone n s = 0

/-- Under `FairAdc` a converter that stays on completes every conversion (60_exceptions R193, 42_adc R108). -/
def Obligations.FairConverterCompletes : Prop :=
  ∀ (x : Execution) (n₀ : Nat), x.FairAdc → (∀ n, n₀ ≤ n → (x.state n).adOn = true) →
    ∃ n, n₀ ≤ n ∧ (x.state n).adGo = false

/-- 10_state R18, R31(d): the view ADRES in each alignment. -/
def Obligations.AlignedViewKeepsItsRange : Prop :=
  ∀ s : State,
    (s.adFmt = false → s.adres.toNat = s.adsamp.toNat ∧ s.adres.toNat ≤ 1023)
    ∧ (s.adFmt = true → s.adres.toNat = s.adsamp.toNat * 64 ∧ s.adres.toNat % 64 = 0 ∧ s.adres.toNat ≤ 0xFFC0)

/-! ## The waveform -/

/-- 43_pwm R121: in a well-formed configuration the quotient is at least 1, the period fits the register, and the clamp
applies iff the quotient is at least 257, which is iff the frequency is at most `F_OSC div (1028 * PWM_PRESCALE)`. -/
def Obligations.PeriodClampsBelowTheLowestFrequency : Prop :=
  ∀ (c : Config) (f : Nat), c.WellFormed → 1 ≤ f → f ≤ 65535 →
    1 ≤ c.fOsc / (4 * c.pwmPrescale * f)
    ∧ pwmPeriod c f = min (c.fOsc / (4 * c.pwmPrescale * f) - 1) 255
    ∧ (257 ≤ c.fOsc / (4 * c.pwmPrescale * f) ↔ f ≤ c.fOsc / (1028 * c.pwmPrescale))
    ∧ (f ≤ c.fOsc / (1028 * c.pwmPrescale) → pwmPeriod c f = 255)
    ∧ (c.fOsc / (1028 * c.pwmPrescale) < f → pwmPeriod c f + 1 = c.fOsc / (4 * c.pwmPrescale * f))

/-- 43_pwm R123, over the integers: the frequency produced, `F_OSC / (4 * PWM_PRESCALE * (PWMPER + 1))`, is at least the
one requested; unclamped it is equal iff the division is exact; clamped it is higher. -/
def Obligations.ProducedFrequencyIsAtLeastTheRequest : Prop :=
  ∀ (c : Config) (f : Nat), c.WellFormed → 1 ≤ f → f ≤ 65535 →
    f * (4 * c.pwmPrescale * (pwmPeriod c f + 1)) ≤ c.fOsc
    ∧ (pwmQuotient c f ≤ 256 →
        (f * (4 * c.pwmPrescale * (pwmPeriod c f + 1)) = c.fOsc ↔ 4 * c.pwmPrescale * f ∣ c.fOsc))
    ∧ (257 ≤ pwmQuotient c f → f * (4 * c.pwmPrescale * 256) < c.fOsc)

/-- 10_state R31(b), 43_pwm R122: once a `PWM_START` with a non-zero frequency has run, and until a reset, PWMDUTY is
half of PWMPER rounded half up, at most 128, and at most PWMPER with equality only at 0 and 1. -/
def Obligations.DutyTracksThePeriodOnceStarted : Prop :=
  ∀ (n : Nat) (s t : State) (f : BitVec 16), f ≠ 0 → s.nextCommand = some (.pwmStart f) →
    Reaches (n + 1) s t → s.noReset (n + 1) →
      t.pwmduty.toNat = (t.pwmper.toNat + 1) / 2 ∧ t.pwmduty.toNat ≤ 128 ∧ t.pwmduty.toNat ≤ t.pwmper.toNat
        ∧ (t.pwmduty.toNat = t.pwmper.toNat ↔ t.pwmper.toNat = 0 ∨ t.pwmper.toNat = 1)

/-- 43_pwm R128, 10_state R23: from PWMTMR = 0 with the timer on, `k` counts take the counter to `k` modulo
`PWMPER + 1`, for as long as one cares to count, and change nothing else; with output compare on the pin is active
exactly while the counter is below PWMDUTY. -/
def Obligations.WaveformRepeatsEveryPeriod : Prop :=
  ∀ (s : State) (k : Nat) (rest : List Event), s.pton = true → s.pwmtmr = 0 →
    s.events = List.replicate k (.hw .pwmCount) ++ rest →
      ∃ t, Reaches k s t
        ∧ t = { s with
            pwmtmr := BitVec.ofNat 8 (k % (s.pwmper.toNat + 1)), events := rest,
            rsp := if k = 0 then s.rsp else none }
        ∧ (s.ocen = true → t.pwmOut = decide (k % (s.pwmper.toNat + 1) < s.pwmduty.toNat))

/-! ## Host routines -/

/-- 45_host_routines R166: the endpoint law of `map`, for every pair of distinct input ends. -/
def Obligations.RangeMapTakesEndsToEnds : Prop :=
  ∀ inMin inMax outMin outMax : BitVec 16, inMax ≠ inMin →
    rangeMap inMin inMin inMax outMin outMax = some outMin ∧ rangeMap inMax inMin inMax outMin outMax = some outMax

/-- 45_host_routines R166: the routine `map`, run alone, returns what the pure function gives and is refused where that
has no value; it changes nothing of the block. -/
def Obligations.MapRoutineComputesRangeMap : Prop :=
  ∀ (value inMin inMax outMin outMax : BitVec 16) (s : State) (buz : Bool) (draw : BitVec 16) (k : Nat), 9 ≤ k →
    let run := (Routine.launch .map [value.toInt, inMin.toInt, inMax.toInt, outMin.toInt, outMax.toInt] s buz).run
      (List.replicate k (.host draw))
    match rangeMap value inMin inMax outMin outMax with
    | some r => ∃ z, run = .next z ∧ z.host.returned = some (some r.toInt) ∧ z.ttb = s
    | none => run = .refused .requireFailed

/-- 45_host_routines R154, R155, R166: `delay_us`, `delay_ms` and `map` issue no command: under every schedule the block
is as the other agents' steps alone leave it. -/
def Obligations.DelaysAndMapIssueNoCommand : Prop :=
  ∀ (rt : Routine) (args : List Int) (s : State) (buz : Bool) (schedule : List SysEvent) (z : System),
    rt = .delayUs ∨ rt = .delayMs ∨ rt = .map → (rt.launch args s buz).run schedule = .next z →
      z.ttb = agentsOnly schedule s ∧ z.host.buz = buz

/-- 45_host_routines R153, R157, R161 to R164: the routines that are one command, run alone, have that command's effect
and return, `millis` with the counter. -/
def Obligations.OneCommandRoutinesRunTheirCommand : Prop :=
  ∀ (ch : BitVec 8) (freq : BitVec 16) (s : State) (buz : Bool) (draw : BitVec 16) (k : Nat), 3 ≤ k →
    (∀ c ∈ [(Routine.selectChannel, [(ch.toNat : Int)], Instr.adcSelect ch), (.start, [(freq.toNat : Int)], .pwmStart freq),
        (.enable, [], .pwmEnable), (.disable, [], .pwmDisable), (.stop, [], .pwmStop)],
      ∃ t z, exec c.2.2 s = .next t ∧ (c.1.launch c.2.1 s buz).run (List.replicate k (.host draw)) = .next z
        ∧ z.ttb = t ∧ z.host.returned = some none)
    ∧ ∃ z, (Routine.launch .millis [] s buz).run (List.replicate k (.host draw)) = .next z
        ∧ z.ttb = { s with rsp := some ⟨false, s.ticks⟩ } ∧ z.host.returned = some (some (s.ticks.toNat : Int))

/-- 45_host_routines R158, R159: under every schedule `read` returns a value in 0 to 1023 and `read_8bit` one in 0 to
255; without a reset it is the last sample, all of it and its top 8 bits, GO is 0 and FMT is as the routine set it. In a
well-formed configuration: an ill-formed channel mask could hold FMT. -/
def Obligations.ReadRoutinesReturnTheSample : Prop :=
  ∀ (s : State) (buz : Bool) (schedule : List SysEvent) (z : System) (v : Option Int),
    s.cfg.WellFormed → z.host.returned = some v →
      ((Routine.launch .read [] s buz).run schedule = .next z →
        (∃ r : Int, v = some r ∧ 0 ≤ r ∧ r ≤ 1023)
        ∧ ((∀ d, .hw (.reset d) ∉ schedule) →
            v = some (z.ttb.adsamp.toNat : Int) ∧ z.ttb.adGo = false ∧ z.ttb.adFmt = false))
      ∧ ((Routine.launch .read8bit [] s buz).run schedule = .next z →
        (∃ r : Int, v = some r ∧ 0 ≤ r ∧ r ≤ 255)
        ∧ ((∀ d, .hw (.reset d) ∉ schedule) →
            v = some ((z.ttb.adsamp.toNat / 4 : Nat) : Int) ∧ z.ttb.adGo = false ∧ z.ttb.adFmt = true))

/-- 45_host_routines R160: `read_channel` returns a value in 0 to 1023 whatever the channel constant, the samples drawn
and the schedule; without a reset it leaves ON, GO and FMT 0 and CHS the channel's masked bits. -/
def Obligations.ReadChannelReturnsTenBits : Prop :=
  ∀ (channel : BitVec 8) (s : State) (buz : Bool) (schedule : List SysEvent) (z : System) (v : Option Int),
    s.cfg.WellFormed → (Routine.launch .readChannel [channel.toNat] s buz).run schedule = .next z →
      z.host.returned = some v →
        (∃ r : Int, v = some r ∧ 0 ≤ r ∧ r ≤ 1023)
        ∧ ((∀ d, .hw (.reset d) ∉ schedule) →
            z.ttb.adOn = false ∧ z.ttb.adGo = false ∧ z.ttb.adFmt = false
              ∧ z.ttb.adChs = channel &&& s.cfg.adcChsMask)

/-- 45_host_routines R165: for every non-zero frequency and every duration, `play_freq` leaves BUZ deasserted when it
returns, and the block is as the other agents' steps alone leave it, but for the response port; a zero frequency is
refused. -/
def Obligations.PlayFreqLeavesTheBuzzerOff : Prop :=
  (∀ (freq : BitVec 16) (dur : BitVec 32) (s : State) (buz : Bool) (schedule : List SysEvent) (z : System),
    freq ≠ 0 → (Routine.launch .playFreq [freq.toNat, dur.toNat] s buz).run schedule = .next z →
      (z.host.returned ≠ none → z.host.buz = false)
      ∧ { z.ttb with rsp := none } = { agentsOnly schedule s with rsp := none })
  ∧ (∀ (dur : BitVec 32) (s : State) (buz : Bool) (d₁ d₂ : BitVec 16) (schedule : List SysEvent),
      (Routine.launch .playFreq [0, dur.toNat] s buz).run (.host d₁ :: .host d₂ :: schedule)
        = .refused .requireFailed)
end

