-- ==== Sys2Proof/Laws/Decode.lean ====
section
/-! SUPPORT. The three fields of a command word put together and taken apart (spec/30_encoding.md R61). -/

namespace Sys2Proof

@[simp] theorem cmdOp_mkCommand (op : BitVec 8) (a b : BitVec 32) : cmdOp (mkCommand op a b) = op := by
  apply BitVec.eq_of_getLsbD_eq
  intro i hi
  simp only [cmdOp, mkCommand, BitVec.getLsbD_extractLsb', BitVec.getLsbD_append, hi, decide_true, Bool.true_and]
  rw [if_neg (by omega), if_neg (by omega)]
  congr 1; omega

@[simp] theorem cmdA_mkCommand (op : BitVec 8) (a b : BitVec 32) : cmdA (mkCommand op a b) = a := by
  apply BitVec.eq_of_getLsbD_eq
  intro i hi
  simp only [cmdA, mkCommand, BitVec.getLsbD_extractLsb', BitVec.getLsbD_append, hi, decide_true, Bool.true_and]
  rw [if_neg (by omega), if_pos (by omega)]
  congr 1; omega

@[simp] theorem cmdB_mkCommand (op : BitVec 8) (a b : BitVec 32) : cmdB (mkCommand op a b) = b := by
  apply BitVec.eq_of_getLsbD_eq
  intro i hi
  simp only [cmdB, mkCommand, BitVec.getLsbD_extractLsb', BitVec.getLsbD_append, hi, decide_true, Bool.true_and]
  rw [if_pos (by omega)]
  congr 1; omega

/-- A word is its three fields put together. -/
@[simp] theorem mkCommand_fields (w : CommandWord) : mkCommand (cmdOp w) (cmdA w) (cmdB w) = w := by
  apply BitVec.eq_of_getLsbD_eq
  intro i hi
  simp only [cmdOp, cmdA, cmdB, mkCommand, BitVec.getLsbD_extractLsb', BitVec.getLsbD_append]
  split
  · simp [*]
  · split
    · rw [decide_eq_true (by omega), Bool.true_and]; congr 1; omega
    · rw [decide_eq_true (by omega), Bool.true_and]; congr 1; omega

/-- Two words are equal iff their fields are. -/
theorem mkCommand_inj {op op' : BitVec 8} {a a' b b' : BitVec 32} :
    mkCommand op a b = mkCommand op' a' b' ↔ op = op' ∧ a = a' ∧ b = b' := by
  refine ⟨fun h => ⟨?_, ?_, ?_⟩, fun ⟨h1, h2, h3⟩ => by rw [h1, h2, h3]⟩
  · simpa using congrArg cmdOp h
  · simpa using congrArg cmdA h
  · simpa using congrArg cmdB h

/-- Masking a word masks its fields. -/
theorem mkCommand_and (op op' : BitVec 8) (a a' b b' : BitVec 32) :
    mkCommand op a b &&& mkCommand op' a' b' = mkCommand (op &&& op') (a &&& a') (b &&& b') := by
  apply BitVec.eq_of_getLsbD_eq
  intro i _
  simp only [mkCommand, BitVec.getLsbD_and, BitVec.getLsbD_append]
  split <;> [skip; split] <;> rfl

/-- Decoding a word written as its three fields. -/
@[simp] theorem decode_mkCommand (op : BitVec 8) (a b : BitVec 32) :
    decode (mkCommand op a b) = decodeFields op a b := by simp [decode]

@[simp] theorem decodeN_eq_command {i j : Instr} {a b : BitVec 32} :
    decodeN i a b = .command j ↔ a = 0 ∧ b = 0 ∧ i = j := by
  unfold decodeN; split <;> simp_all

@[simp] theorem decodeT1_eq_command {j : Instr} {a b : BitVec 32} :
    decodeT1 a b = .command j ↔ b = 0 ∧ .elapsed a = j := by
  unfold decodeT1; split <;> simp_all

@[simp] theorem decodeR_eq_command {j : Instr} {a b : BitVec 32} :
    decodeR a b = .command j ↔
      a.extractLsb' 4 28 = 0 ∧ b = 0 ∧ a.extractLsb' 0 4 ≤ 0xA#4 ∧ .rdreg (a.extractLsb' 0 4) = j := by
  unfold decodeR; split <;> [split; skip] <;> simp_all

@[simp] theorem decodeC_eq_command {j : Instr} {a b : BitVec 32} :
    decodeC a b = .command j ↔ a.extractLsb' 8 24 = 0 ∧ b = 0 ∧ .adcSelect (a.extractLsb' 0 8) = j := by
  unfold decodeC; split <;> simp_all

@[simp] theorem decodeF_eq_command {j : Instr} {a b : BitVec 32} :
    decodeF a b = .command j ↔ a.extractLsb' 16 16 = 0 ∧ b = 0 ∧ .pwmStart (a.extractLsb' 0 16) = j := by
  unfold decodeF; split <;> simp_all

/-- An operand placed in the low bits of a field leaves the bits above it 0. -/
theorem extractLsb'_setWidth_high {k : Nat} (v : BitVec k) (m : Nat) : (v.setWidth 32).extractLsb' k m = 0 := by
  apply BitVec.eq_of_getLsbD_eq
  intro i _
  simp only [BitVec.getLsbD_extractLsb', BitVec.getLsbD_setWidth]
  rw [BitVec.getLsbD_of_ge _ _ (by omega)]
  simp

/-- An operand placed in the low bits of a field is read back. -/
theorem extractLsb'_setWidth_low {k : Nat} (v : BitVec k) (h : k ≤ 32) : (v.setWidth 32).extractLsb' 0 k = v := by
  apply BitVec.eq_of_getLsbD_eq
  intro i hi
  simp only [BitVec.getLsbD_extractLsb', BitVec.getLsbD_setWidth, Nat.zero_add, hi, decide_true, Bool.true_and]
  rw [decide_eq_true (by omega), Bool.true_and]

/-- A field whose high bits are 0 is its low bits. -/
theorem setWidth_extractLsb'_low {k m : Nat} (v : BitVec 32) (h : v.extractLsb' k m = 0) (hk : 32 ≤ k + m) :
    (v.extractLsb' 0 k).setWidth 32 = v := by
  apply BitVec.eq_of_getLsbD_eq
  intro i hi
  simp only [BitVec.getLsbD_extractLsb', BitVec.getLsbD_setWidth, hi, Nat.zero_add, decide_true, Bool.true_and]
  by_cases hik : i < k
  · simp [hik]
  · have hb := congrArg (fun x => x.getLsbD (i - k)) h
    simp only [BitVec.getLsbD_extractLsb'] at hb
    rw [decide_eq_true (by omega), Bool.true_and] at hb
    rw [show k + (i - k) = i by omega] at hb
    simp [hik, hb]

end Sys2Proof
end

