-- ==== Sys2Proof/Laws/State.lean ====
section
/-! SUPPORT. What each update of the state leaves alone and what it writes: one lemma per field per update, so that no
later proof unfolds a record update. -/

namespace Sys2Proof.Machine

/-! `putTon`. -/

@[simp] theorem putTon_ticks (s : State) (b : Bool) : (s.putTon b).ticks = s.ticks := rfl
@[simp] theorem putTon_tmr (s : State) (b : Bool) : (s.putTon b).tmr = s.tmr := rfl
@[simp] theorem putTon_tbctl (s : State) (b : Bool) : (s.putTon b).tbctl = putBit s.tbctl 0 b := rfl
@[simp] theorem putTon_treload (s : State) (b : Bool) : (s.putTon b).treload = s.treload := rfl
@[simp] theorem putTon_adctl (s : State) (b : Bool) : (s.putTon b).adctl = s.adctl := rfl
@[simp] theorem putTon_adsamp (s : State) (b : Bool) : (s.putTon b).adsamp = s.adsamp := rfl
@[simp] theorem putTon_pwmctl (s : State) (b : Bool) : (s.putTon b).pwmctl = s.pwmctl := rfl
@[simp] theorem putTon_pwmper (s : State) (b : Bool) : (s.putTon b).pwmper = s.pwmper := rfl
@[simp] theorem putTon_pwmduty (s : State) (b : Bool) : (s.putTon b).pwmduty = s.pwmduty := rfl
@[simp] theorem putTon_pwmtmr (s : State) (b : Bool) : (s.putTon b).pwmtmr = s.pwmtmr := rfl
@[simp] theorem putTon_rsp (s : State) (b : Bool) : (s.putTon b).rsp = s.rsp := rfl
@[simp] theorem putTon_events (s : State) (b : Bool) : (s.putTon b).events = s.events := rfl
@[simp] theorem putTon_cfg (s : State) (b : Bool) : (s.putTon b).cfg = s.cfg := rfl

/-! `putTie`. -/

@[simp] theorem putTie_ticks (s : State) (b : Bool) : (s.putTie b).ticks = s.ticks := rfl
@[simp] theorem putTie_tmr (s : State) (b : Bool) : (s.putTie b).tmr = s.tmr := rfl
@[simp] theorem putTie_tbctl (s : State) (b : Bool) : (s.putTie b).tbctl = putBit s.tbctl 1 b := rfl
@[simp] theorem putTie_treload (s : State) (b : Bool) : (s.putTie b).treload = s.treload := rfl
@[simp] theorem putTie_adctl (s : State) (b : Bool) : (s.putTie b).adctl = s.adctl := rfl
@[simp] theorem putTie_adsamp (s : State) (b : Bool) : (s.putTie b).adsamp = s.adsamp := rfl
@[simp] theorem putTie_pwmctl (s : State) (b : Bool) : (s.putTie b).pwmctl = s.pwmctl := rfl
@[simp] theorem putTie_pwmper (s : State) (b : Bool) : (s.putTie b).pwmper = s.pwmper := rfl
@[simp] theorem putTie_pwmduty (s : State) (b : Bool) : (s.putTie b).pwmduty = s.pwmduty := rfl
@[simp] theorem putTie_pwmtmr (s : State) (b : Bool) : (s.putTie b).pwmtmr = s.pwmtmr := rfl
@[simp] theorem putTie_rsp (s : State) (b : Bool) : (s.putTie b).rsp = s.rsp := rfl
@[simp] theorem putTie_events (s : State) (b : Bool) : (s.putTie b).events = s.events := rfl
@[simp] theorem putTie_cfg (s : State) (b : Bool) : (s.putTie b).cfg = s.cfg := rfl

/-! `putTif`. -/

@[simp] theorem putTif_ticks (s : State) (b : Bool) : (s.putTif b).ticks = s.ticks := rfl
@[simp] theorem putTif_tmr (s : State) (b : Bool) : (s.putTif b).tmr = s.tmr := rfl
@[simp] theorem putTif_tbctl (s : State) (b : Bool) : (s.putTif b).tbctl = putBit s.tbctl 2 b := rfl
@[simp] theorem putTif_treload (s : State) (b : Bool) : (s.putTif b).treload = s.treload := rfl
@[simp] theorem putTif_adctl (s : State) (b : Bool) : (s.putTif b).adctl = s.adctl := rfl
@[simp] theorem putTif_adsamp (s : State) (b : Bool) : (s.putTif b).adsamp = s.adsamp := rfl
@[simp] theorem putTif_pwmctl (s : State) (b : Bool) : (s.putTif b).pwmctl = s.pwmctl := rfl
@[simp] theorem putTif_pwmper (s : State) (b : Bool) : (s.putTif b).pwmper = s.pwmper := rfl
@[simp] theorem putTif_pwmduty (s : State) (b : Bool) : (s.putTif b).pwmduty = s.pwmduty := rfl
@[simp] theorem putTif_pwmtmr (s : State) (b : Bool) : (s.putTif b).pwmtmr = s.pwmtmr := rfl
@[simp] theorem putTif_rsp (s : State) (b : Bool) : (s.putTif b).rsp = s.rsp := rfl
@[simp] theorem putTif_events (s : State) (b : Bool) : (s.putTif b).events = s.events := rfl
@[simp] theorem putTif_cfg (s : State) (b : Bool) : (s.putTif b).cfg = s.cfg := rfl

/-! `putGie`. -/

@[simp] theorem putGie_ticks (s : State) (b : Bool) : (s.putGie b).ticks = s.ticks := rfl
@[simp] theorem putGie_tmr (s : State) (b : Bool) : (s.putGie b).tmr = s.tmr := rfl
@[simp] theorem putGie_tbctl (s : State) (b : Bool) : (s.putGie b).tbctl = putBit s.tbctl 3 b := rfl
@[simp] theorem putGie_treload (s : State) (b : Bool) : (s.putGie b).treload = s.treload := rfl
@[simp] theorem putGie_adctl (s : State) (b : Bool) : (s.putGie b).adctl = s.adctl := rfl
@[simp] theorem putGie_adsamp (s : State) (b : Bool) : (s.putGie b).adsamp = s.adsamp := rfl
@[simp] theorem putGie_pwmctl (s : State) (b : Bool) : (s.putGie b).pwmctl = s.pwmctl := rfl
@[simp] theorem putGie_pwmper (s : State) (b : Bool) : (s.putGie b).pwmper = s.pwmper := rfl
@[simp] theorem putGie_pwmduty (s : State) (b : Bool) : (s.putGie b).pwmduty = s.pwmduty := rfl
@[simp] theorem putGie_pwmtmr (s : State) (b : Bool) : (s.putGie b).pwmtmr = s.pwmtmr := rfl
@[simp] theorem putGie_rsp (s : State) (b : Bool) : (s.putGie b).rsp = s.rsp := rfl
@[simp] theorem putGie_events (s : State) (b : Bool) : (s.putGie b).events = s.events := rfl
@[simp] theorem putGie_cfg (s : State) (b : Bool) : (s.putGie b).cfg = s.cfg := rfl

/-! `putAdOn`. -/

@[simp] theorem putAdOn_ticks (s : State) (b : Bool) : (s.putAdOn b).ticks = s.ticks := rfl
@[simp] theorem putAdOn_tmr (s : State) (b : Bool) : (s.putAdOn b).tmr = s.tmr := rfl
@[simp] theorem putAdOn_tbctl (s : State) (b : Bool) : (s.putAdOn b).tbctl = s.tbctl := rfl
@[simp] theorem putAdOn_treload (s : State) (b : Bool) : (s.putAdOn b).treload = s.treload := rfl
@[simp] theorem putAdOn_adctl (s : State) (b : Bool) : (s.putAdOn b).adctl = putBit s.adctl 0 b := rfl
@[simp] theorem putAdOn_adsamp (s : State) (b : Bool) : (s.putAdOn b).adsamp = s.adsamp := rfl
@[simp] theorem putAdOn_pwmctl (s : State) (b : Bool) : (s.putAdOn b).pwmctl = s.pwmctl := rfl
@[simp] theorem putAdOn_pwmper (s : State) (b : Bool) : (s.putAdOn b).pwmper = s.pwmper := rfl
@[simp] theorem putAdOn_pwmduty (s : State) (b : Bool) : (s.putAdOn b).pwmduty = s.pwmduty := rfl
@[simp] theorem putAdOn_pwmtmr (s : State) (b : Bool) : (s.putAdOn b).pwmtmr = s.pwmtmr := rfl
@[simp] theorem putAdOn_rsp (s : State) (b : Bool) : (s.putAdOn b).rsp = s.rsp := rfl
@[simp] theorem putAdOn_events (s : State) (b : Bool) : (s.putAdOn b).events = s.events := rfl
@[simp] theorem putAdOn_cfg (s : State) (b : Bool) : (s.putAdOn b).cfg = s.cfg := rfl

/-! `putAdGo`. -/

@[simp] theorem putAdGo_ticks (s : State) (b : Bool) : (s.putAdGo b).ticks = s.ticks := rfl
@[simp] theorem putAdGo_tmr (s : State) (b : Bool) : (s.putAdGo b).tmr = s.tmr := rfl
@[simp] theorem putAdGo_tbctl (s : State) (b : Bool) : (s.putAdGo b).tbctl = s.tbctl := rfl
@[simp] theorem putAdGo_treload (s : State) (b : Bool) : (s.putAdGo b).treload = s.treload := rfl
@[simp] theorem putAdGo_adctl (s : State) (b : Bool) : (s.putAdGo b).adctl = putBit s.adctl 1 b := rfl
@[simp] theorem putAdGo_adsamp (s : State) (b : Bool) : (s.putAdGo b).adsamp = s.adsamp := rfl
@[simp] theorem putAdGo_pwmctl (s : State) (b : Bool) : (s.putAdGo b).pwmctl = s.pwmctl := rfl
@[simp] theorem putAdGo_pwmper (s : State) (b : Bool) : (s.putAdGo b).pwmper = s.pwmper := rfl
@[simp] theorem putAdGo_pwmduty (s : State) (b : Bool) : (s.putAdGo b).pwmduty = s.pwmduty := rfl
@[simp] theorem putAdGo_pwmtmr (s : State) (b : Bool) : (s.putAdGo b).pwmtmr = s.pwmtmr := rfl
@[simp] theorem putAdGo_rsp (s : State) (b : Bool) : (s.putAdGo b).rsp = s.rsp := rfl
@[simp] theorem putAdGo_events (s : State) (b : Bool) : (s.putAdGo b).events = s.events := rfl
@[simp] theorem putAdGo_cfg (s : State) (b : Bool) : (s.putAdGo b).cfg = s.cfg := rfl

/-! `putAdFmt`. -/

@[simp] theorem putAdFmt_ticks (s : State) (b : Bool) : (s.putAdFmt b).ticks = s.ticks := rfl
@[simp] theorem putAdFmt_tmr (s : State) (b : Bool) : (s.putAdFmt b).tmr = s.tmr := rfl
@[simp] theorem putAdFmt_tbctl (s : State) (b : Bool) : (s.putAdFmt b).tbctl = s.tbctl := rfl
@[simp] theorem putAdFmt_treload (s : State) (b : Bool) : (s.putAdFmt b).treload = s.treload := rfl
@[simp] theorem putAdFmt_adctl (s : State) (b : Bool) : (s.putAdFmt b).adctl = putBit s.adctl 7 b := rfl
@[simp] theorem putAdFmt_adsamp (s : State) (b : Bool) : (s.putAdFmt b).adsamp = s.adsamp := rfl
@[simp] theorem putAdFmt_pwmctl (s : State) (b : Bool) : (s.putAdFmt b).pwmctl = s.pwmctl := rfl
@[simp] theorem putAdFmt_pwmper (s : State) (b : Bool) : (s.putAdFmt b).pwmper = s.pwmper := rfl
@[simp] theorem putAdFmt_pwmduty (s : State) (b : Bool) : (s.putAdFmt b).pwmduty = s.pwmduty := rfl
@[simp] theorem putAdFmt_pwmtmr (s : State) (b : Bool) : (s.putAdFmt b).pwmtmr = s.pwmtmr := rfl
@[simp] theorem putAdFmt_rsp (s : State) (b : Bool) : (s.putAdFmt b).rsp = s.rsp := rfl
@[simp] theorem putAdFmt_events (s : State) (b : Bool) : (s.putAdFmt b).events = s.events := rfl
@[simp] theorem putAdFmt_cfg (s : State) (b : Bool) : (s.putAdFmt b).cfg = s.cfg := rfl

/-! `putPton`. -/

@[simp] theorem putPton_ticks (s : State) (b : Bool) : (s.putPton b).ticks = s.ticks := rfl
@[simp] theorem putPton_tmr (s : State) (b : Bool) : (s.putPton b).tmr = s.tmr := rfl
@[simp] theorem putPton_tbctl (s : State) (b : Bool) : (s.putPton b).tbctl = s.tbctl := rfl
@[simp] theorem putPton_treload (s : State) (b : Bool) : (s.putPton b).treload = s.treload := rfl
@[simp] theorem putPton_adctl (s : State) (b : Bool) : (s.putPton b).adctl = s.adctl := rfl
@[simp] theorem putPton_adsamp (s : State) (b : Bool) : (s.putPton b).adsamp = s.adsamp := rfl
@[simp] theorem putPton_pwmctl (s : State) (b : Bool) : (s.putPton b).pwmctl = putBit s.pwmctl 0 b := rfl
@[simp] theorem putPton_pwmper (s : State) (b : Bool) : (s.putPton b).pwmper = s.pwmper := rfl
@[simp] theorem putPton_pwmduty (s : State) (b : Bool) : (s.putPton b).pwmduty = s.pwmduty := rfl
@[simp] theorem putPton_pwmtmr (s : State) (b : Bool) : (s.putPton b).pwmtmr = s.pwmtmr := rfl
@[simp] theorem putPton_rsp (s : State) (b : Bool) : (s.putPton b).rsp = s.rsp := rfl
@[simp] theorem putPton_events (s : State) (b : Bool) : (s.putPton b).events = s.events := rfl
@[simp] theorem putPton_cfg (s : State) (b : Bool) : (s.putPton b).cfg = s.cfg := rfl

/-! `putOcen`. -/

@[simp] theorem putOcen_ticks (s : State) (b : Bool) : (s.putOcen b).ticks = s.ticks := rfl
@[simp] theorem putOcen_tmr (s : State) (b : Bool) : (s.putOcen b).tmr = s.tmr := rfl
@[simp] theorem putOcen_tbctl (s : State) (b : Bool) : (s.putOcen b).tbctl = s.tbctl := rfl
@[simp] theorem putOcen_treload (s : State) (b : Bool) : (s.putOcen b).treload = s.treload := rfl
@[simp] theorem putOcen_adctl (s : State) (b : Bool) : (s.putOcen b).adctl = s.adctl := rfl
@[simp] theorem putOcen_adsamp (s : State) (b : Bool) : (s.putOcen b).adsamp = s.adsamp := rfl
@[simp] theorem putOcen_pwmctl (s : State) (b : Bool) : (s.putOcen b).pwmctl = putBit s.pwmctl 1 b := rfl
@[simp] theorem putOcen_pwmper (s : State) (b : Bool) : (s.putOcen b).pwmper = s.pwmper := rfl
@[simp] theorem putOcen_pwmduty (s : State) (b : Bool) : (s.putOcen b).pwmduty = s.pwmduty := rfl
@[simp] theorem putOcen_pwmtmr (s : State) (b : Bool) : (s.putOcen b).pwmtmr = s.pwmtmr := rfl
@[simp] theorem putOcen_rsp (s : State) (b : Bool) : (s.putOcen b).rsp = s.rsp := rfl
@[simp] theorem putOcen_events (s : State) (b : Bool) : (s.putOcen b).events = s.events := rfl
@[simp] theorem putOcen_cfg (s : State) (b : Bool) : (s.putOcen b).cfg = s.cfg := rfl

/-! `putAdChs`. -/

@[simp] theorem putAdChs_ticks (s : State) (ch : BitVec 8) : (s.putAdChs ch).ticks = s.ticks := rfl
@[simp] theorem putAdChs_tmr (s : State) (ch : BitVec 8) : (s.putAdChs ch).tmr = s.tmr := rfl
@[simp] theorem putAdChs_tbctl (s : State) (ch : BitVec 8) : (s.putAdChs ch).tbctl = s.tbctl := rfl
@[simp] theorem putAdChs_treload (s : State) (ch : BitVec 8) : (s.putAdChs ch).treload = s.treload := rfl
@[simp] theorem putAdChs_adctl (s : State) (ch : BitVec 8) : (s.putAdChs ch).adctl = (s.adctl &&& ~~~s.cfg.adcChsMask) ||| (ch &&& s.cfg.adcChsMask) := rfl
@[simp] theorem putAdChs_adsamp (s : State) (ch : BitVec 8) : (s.putAdChs ch).adsamp = s.adsamp := rfl
@[simp] theorem putAdChs_pwmctl (s : State) (ch : BitVec 8) : (s.putAdChs ch).pwmctl = s.pwmctl := rfl
@[simp] theorem putAdChs_pwmper (s : State) (ch : BitVec 8) : (s.putAdChs ch).pwmper = s.pwmper := rfl
@[simp] theorem putAdChs_pwmduty (s : State) (ch : BitVec 8) : (s.putAdChs ch).pwmduty = s.pwmduty := rfl
@[simp] theorem putAdChs_pwmtmr (s : State) (ch : BitVec 8) : (s.putAdChs ch).pwmtmr = s.pwmtmr := rfl
@[simp] theorem putAdChs_rsp (s : State) (ch : BitVec 8) : (s.putAdChs ch).rsp = s.rsp := rfl
@[simp] theorem putAdChs_events (s : State) (ch : BitVec 8) : (s.putAdChs ch).events = s.events := rfl
@[simp] theorem putAdChs_cfg (s : State) (ch : BitVec 8) : (s.putAdChs ch).cfg = s.cfg := rfl

/-! `respond`. -/

@[simp] theorem respond_ticks (s : State) {w : Nat} (d : BitVec w) : (s.respond d).ticks = s.ticks := rfl
@[simp] theorem respond_tmr (s : State) {w : Nat} (d : BitVec w) : (s.respond d).tmr = s.tmr := rfl
@[simp] theorem respond_tbctl (s : State) {w : Nat} (d : BitVec w) : (s.respond d).tbctl = s.tbctl := rfl
@[simp] theorem respond_treload (s : State) {w : Nat} (d : BitVec w) : (s.respond d).treload = s.treload := rfl
@[simp] theorem respond_adctl (s : State) {w : Nat} (d : BitVec w) : (s.respond d).adctl = s.adctl := rfl
@[simp] theorem respond_adsamp (s : State) {w : Nat} (d : BitVec w) : (s.respond d).adsamp = s.adsamp := rfl
@[simp] theorem respond_pwmctl (s : State) {w : Nat} (d : BitVec w) : (s.respond d).pwmctl = s.pwmctl := rfl
@[simp] theorem respond_pwmper (s : State) {w : Nat} (d : BitVec w) : (s.respond d).pwmper = s.pwmper := rfl
@[simp] theorem respond_pwmduty (s : State) {w : Nat} (d : BitVec w) : (s.respond d).pwmduty = s.pwmduty := rfl
@[simp] theorem respond_pwmtmr (s : State) {w : Nat} (d : BitVec w) : (s.respond d).pwmtmr = s.pwmtmr := rfl
@[simp] theorem respond_rsp (s : State) {w : Nat} (d : BitVec w) : (s.respond d).rsp = some ⟨false, d.setWidth 32⟩ := rfl
@[simp] theorem respond_events (s : State) {w : Nat} (d : BitVec w) : (s.respond d).events = s.events := rfl
@[simp] theorem respond_cfg (s : State) {w : Nat} (d : BitVec w) : (s.respond d).cfg = s.cfg := rfl

/-! `respondNone`. -/

@[simp] theorem respondNone_ticks (s : State) : (s.respondNone).ticks = s.ticks := rfl
@[simp] theorem respondNone_tmr (s : State) : (s.respondNone).tmr = s.tmr := rfl
@[simp] theorem respondNone_tbctl (s : State) : (s.respondNone).tbctl = s.tbctl := rfl
@[simp] theorem respondNone_treload (s : State) : (s.respondNone).treload = s.treload := rfl
@[simp] theorem respondNone_adctl (s : State) : (s.respondNone).adctl = s.adctl := rfl
@[simp] theorem respondNone_adsamp (s : State) : (s.respondNone).adsamp = s.adsamp := rfl
@[simp] theorem respondNone_pwmctl (s : State) : (s.respondNone).pwmctl = s.pwmctl := rfl
@[simp] theorem respondNone_pwmper (s : State) : (s.respondNone).pwmper = s.pwmper := rfl
@[simp] theorem respondNone_pwmduty (s : State) : (s.respondNone).pwmduty = s.pwmduty := rfl
@[simp] theorem respondNone_pwmtmr (s : State) : (s.respondNone).pwmtmr = s.pwmtmr := rfl
@[simp] theorem respondNone_rsp (s : State) : (s.respondNone).rsp = some ⟨false, (0#32).setWidth 32⟩ := rfl
@[simp] theorem respondNone_events (s : State) : (s.respondNone).events = s.events := rfl
@[simp] theorem respondNone_cfg (s : State) : (s.respondNone).cfg = s.cfg := rfl

/-! `raiseIllegalCommand`. -/

@[simp] theorem raiseIllegalCommand_ticks (s : State) : (s.raiseIllegalCommand).ticks = s.ticks := rfl
@[simp] theorem raiseIllegalCommand_tmr (s : State) : (s.raiseIllegalCommand).tmr = s.tmr := rfl
@[simp] theorem raiseIllegalCommand_tbctl (s : State) : (s.raiseIllegalCommand).tbctl = s.tbctl := rfl
@[simp] theorem raiseIllegalCommand_treload (s : State) : (s.raiseIllegalCommand).treload = s.treload := rfl
@[simp] theorem raiseIllegalCommand_adctl (s : State) : (s.raiseIllegalCommand).adctl = s.adctl := rfl
@[simp] theorem raiseIllegalCommand_adsamp (s : State) : (s.raiseIllegalCommand).adsamp = s.adsamp := rfl
@[simp] theorem raiseIllegalCommand_pwmctl (s : State) : (s.raiseIllegalCommand).pwmctl = s.pwmctl := rfl
@[simp] theorem raiseIllegalCommand_pwmper (s : State) : (s.raiseIllegalCommand).pwmper = s.pwmper := rfl
@[simp] theorem raiseIllegalCommand_pwmduty (s : State) : (s.raiseIllegalCommand).pwmduty = s.pwmduty := rfl
@[simp] theorem raiseIllegalCommand_pwmtmr (s : State) : (s.raiseIllegalCommand).pwmtmr = s.pwmtmr := rfl
@[simp] theorem raiseIllegalCommand_rsp (s : State) : (s.raiseIllegalCommand).rsp = some ⟨true, 0⟩ := rfl
@[simp] theorem raiseIllegalCommand_events (s : State) : (s.raiseIllegalCommand).events = s.events := rfl
@[simp] theorem raiseIllegalCommand_cfg (s : State) : (s.raiseIllegalCommand).cfg = s.cfg := rfl

/-! `armTick`. -/

@[simp] theorem armTick_ticks (s : State) : (s.armTick).ticks = s.ticks := rfl
@[simp] theorem armTick_tmr (s : State) : (s.armTick).tmr = s.treload := rfl
@[simp] theorem armTick_tbctl (s : State) : (s.armTick).tbctl = putBit (putBit (putBit s.tbctl 2 false) 1 true) 0 true := rfl
@[simp] theorem armTick_treload (s : State) : (s.armTick).treload = s.treload := rfl
@[simp] theorem armTick_adctl (s : State) : (s.armTick).adctl = s.adctl := rfl
@[simp] theorem armTick_adsamp (s : State) : (s.armTick).adsamp = s.adsamp := rfl
@[simp] theorem armTick_pwmctl (s : State) : (s.armTick).pwmctl = s.pwmctl := rfl
@[simp] theorem armTick_pwmper (s : State) : (s.armTick).pwmper = s.pwmper := rfl
@[simp] theorem armTick_pwmduty (s : State) : (s.armTick).pwmduty = s.pwmduty := rfl
@[simp] theorem armTick_pwmtmr (s : State) : (s.armTick).pwmtmr = s.pwmtmr := rfl
@[simp] theorem armTick_rsp (s : State) : (s.armTick).rsp = s.rsp := rfl
@[simp] theorem armTick_events (s : State) : (s.armTick).events = s.events := rfl
@[simp] theorem armTick_cfg (s : State) : (s.armTick).cfg = s.cfg := rfl

/-! `takeTickInterrupt`. -/

@[simp] theorem takeTickInterrupt_ticks (s : State) : (s.takeTickInterrupt).ticks = s.ticks + 1 := rfl
@[simp] theorem takeTickInterrupt_tmr (s : State) : (s.takeTickInterrupt).tmr = s.treload := rfl
@[simp] theorem takeTickInterrupt_tbctl (s : State) : (s.takeTickInterrupt).tbctl = putBit s.tbctl 2 false := rfl
@[simp] theorem takeTickInterrupt_treload (s : State) : (s.takeTickInterrupt).treload = s.treload := rfl
@[simp] theorem takeTickInterrupt_adctl (s : State) : (s.takeTickInterrupt).adctl = s.adctl := rfl
@[simp] theorem takeTickInterrupt_adsamp (s : State) : (s.takeTickInterrupt).adsamp = s.adsamp := rfl
@[simp] theorem takeTickInterrupt_pwmctl (s : State) : (s.takeTickInterrupt).pwmctl = s.pwmctl := rfl
@[simp] theorem takeTickInterrupt_pwmper (s : State) : (s.takeTickInterrupt).pwmper = s.pwmper := rfl
@[simp] theorem takeTickInterrupt_pwmduty (s : State) : (s.takeTickInterrupt).pwmduty = s.pwmduty := rfl
@[simp] theorem takeTickInterrupt_pwmtmr (s : State) : (s.takeTickInterrupt).pwmtmr = s.pwmtmr := rfl
@[simp] theorem takeTickInterrupt_rsp (s : State) : (s.takeTickInterrupt).rsp = s.rsp := rfl
@[simp] theorem takeTickInterrupt_events (s : State) : (s.takeTickInterrupt).events = s.events := rfl
@[simp] theorem takeTickInterrupt_cfg (s : State) : (s.takeTickInterrupt).cfg = s.cfg := rfl

/-! `adcDoneStep`. -/

@[simp] theorem adcDoneStep_ticks (s : State) (sample : BitVec 10) : (s.adcDoneStep sample).ticks = s.ticks := rfl
@[simp] theorem adcDoneStep_tmr (s : State) (sample : BitVec 10) : (s.adcDoneStep sample).tmr = s.tmr := rfl
@[simp] theorem adcDoneStep_tbctl (s : State) (sample : BitVec 10) : (s.adcDoneStep sample).tbctl = s.tbctl := rfl
@[simp] theorem adcDoneStep_treload (s : State) (sample : BitVec 10) : (s.adcDoneStep sample).treload = s.treload := rfl
@[simp] theorem adcDoneStep_adctl (s : State) (sample : BitVec 10) : (s.adcDoneStep sample).adctl = putBit s.adctl 1 false := rfl
@[simp] theorem adcDoneStep_adsamp (s : State) (sample : BitVec 10) : (s.adcDoneStep sample).adsamp = sample := rfl
@[simp] theorem adcDoneStep_pwmctl (s : State) (sample : BitVec 10) : (s.adcDoneStep sample).pwmctl = s.pwmctl := rfl
@[simp] theorem adcDoneStep_pwmper (s : State) (sample : BitVec 10) : (s.adcDoneStep sample).pwmper = s.pwmper := rfl
@[simp] theorem adcDoneStep_pwmduty (s : State) (sample : BitVec 10) : (s.adcDoneStep sample).pwmduty = s.pwmduty := rfl
@[simp] theorem adcDoneStep_pwmtmr (s : State) (sample : BitVec 10) : (s.adcDoneStep sample).pwmtmr = s.pwmtmr := rfl
@[simp] theorem adcDoneStep_rsp (s : State) (sample : BitVec 10) : (s.adcDoneStep sample).rsp = s.rsp := rfl
@[simp] theorem adcDoneStep_events (s : State) (sample : BitVec 10) : (s.adcDoneStep sample).events = s.events := rfl
@[simp] theorem adcDoneStep_cfg (s : State) (sample : BitVec 10) : (s.adcDoneStep sample).cfg = s.cfg := rfl

/-! `rspIdle`. -/

@[simp] theorem rspIdle_ticks (s : State) : (s.rspIdle).ticks = s.ticks := rfl
@[simp] theorem rspIdle_tmr (s : State) : (s.rspIdle).tmr = s.tmr := rfl
@[simp] theorem rspIdle_tbctl (s : State) : (s.rspIdle).tbctl = s.tbctl := rfl
@[simp] theorem rspIdle_treload (s : State) : (s.rspIdle).treload = s.treload := rfl
@[simp] theorem rspIdle_adctl (s : State) : (s.rspIdle).adctl = s.adctl := rfl
@[simp] theorem rspIdle_adsamp (s : State) : (s.rspIdle).adsamp = s.adsamp := rfl
@[simp] theorem rspIdle_pwmctl (s : State) : (s.rspIdle).pwmctl = s.pwmctl := rfl
@[simp] theorem rspIdle_pwmper (s : State) : (s.rspIdle).pwmper = s.pwmper := rfl
@[simp] theorem rspIdle_pwmduty (s : State) : (s.rspIdle).pwmduty = s.pwmduty := rfl
@[simp] theorem rspIdle_pwmtmr (s : State) : (s.rspIdle).pwmtmr = s.pwmtmr := rfl
@[simp] theorem rspIdle_rsp (s : State) : (s.rspIdle).rsp = none := rfl
@[simp] theorem rspIdle_events (s : State) : (s.rspIdle).events = s.events := rfl
@[simp] theorem rspIdle_cfg (s : State) : (s.rspIdle).cfg = s.cfg := rfl

/-! `resetStep`. -/

@[simp] theorem resetStep_ticks (s : State) (d : ResetDraw) : (s.resetStep d).ticks = 0 := rfl
@[simp] theorem resetStep_tmr (s : State) (d : ResetDraw) : (s.resetStep d).tmr = d.tmr % 2 ^ s.cfg.tmrW := rfl
@[simp] theorem resetStep_tbctl (s : State) (d : ResetDraw) : (s.resetStep d).tbctl = 0 := rfl
@[simp] theorem resetStep_treload (s : State) (d : ResetDraw) : (s.resetStep d).treload = s.cfg.tickReload := rfl
@[simp] theorem resetStep_adctl (s : State) (d : ResetDraw) : (s.resetStep d).adctl = d.chs &&& s.cfg.adcChsMask := rfl
@[simp] theorem resetStep_adsamp (s : State) (d : ResetDraw) : (s.resetStep d).adsamp = d.adsamp := rfl
@[simp] theorem resetStep_pwmctl (s : State) (d : ResetDraw) : (s.resetStep d).pwmctl = 0 := rfl
@[simp] theorem resetStep_pwmper (s : State) (d : ResetDraw) : (s.resetStep d).pwmper = d.pwmper := rfl
@[simp] theorem resetStep_pwmduty (s : State) (d : ResetDraw) : (s.resetStep d).pwmduty = d.pwmduty := rfl
@[simp] theorem resetStep_pwmtmr (s : State) (d : ResetDraw) : (s.resetStep d).pwmtmr = 0 := rfl
@[simp] theorem resetStep_rsp (s : State) (d : ResetDraw) : (s.resetStep d).rsp = none := rfl
@[simp] theorem resetStep_events (s : State) (d : ResetDraw) : (s.resetStep d).events = s.events := rfl
@[simp] theorem resetStep_cfg (s : State) (d : ResetDraw) : (s.resetStep d).cfg = s.cfg := rfl

/-! `offerCommand`. -/

@[simp] theorem offerCommand_ticks (s : State) (w : CommandWord) : (s.offerCommand w).ticks = s.ticks := rfl
@[simp] theorem offerCommand_tmr (s : State) (w : CommandWord) : (s.offerCommand w).tmr = s.tmr := rfl
@[simp] theorem offerCommand_tbctl (s : State) (w : CommandWord) : (s.offerCommand w).tbctl = s.tbctl := rfl
@[simp] theorem offerCommand_treload (s : State) (w : CommandWord) : (s.offerCommand w).treload = s.treload := rfl
@[simp] theorem offerCommand_adctl (s : State) (w : CommandWord) : (s.offerCommand w).adctl = s.adctl := rfl
@[simp] theorem offerCommand_adsamp (s : State) (w : CommandWord) : (s.offerCommand w).adsamp = s.adsamp := rfl
@[simp] theorem offerCommand_pwmctl (s : State) (w : CommandWord) : (s.offerCommand w).pwmctl = s.pwmctl := rfl
@[simp] theorem offerCommand_pwmper (s : State) (w : CommandWord) : (s.offerCommand w).pwmper = s.pwmper := rfl
@[simp] theorem offerCommand_pwmduty (s : State) (w : CommandWord) : (s.offerCommand w).pwmduty = s.pwmduty := rfl
@[simp] theorem offerCommand_pwmtmr (s : State) (w : CommandWord) : (s.offerCommand w).pwmtmr = s.pwmtmr := rfl
@[simp] theorem offerCommand_rsp (s : State) (w : CommandWord) : (s.offerCommand w).rsp = s.rsp := rfl
@[simp] theorem offerCommand_events (s : State) (w : CommandWord) : (s.offerCommand w).events = .cmd w :: s.events := rfl
@[simp] theorem offerCommand_cfg (s : State) (w : CommandWord) : (s.offerCommand w).cfg = s.cfg := rfl

/-! `tmrCountStep` and `pwmCountStep`, which branch. -/

@[simp] theorem tmrCountStep_ticks (s : State) : s.tmrCountStep.ticks = s.ticks := by
  unfold State.tmrCountStep; split <;> rfl
@[simp] theorem tmrCountStep_treload (s : State) : s.tmrCountStep.treload = s.treload := by
  unfold State.tmrCountStep; split <;> rfl
@[simp] theorem tmrCountStep_adctl (s : State) : s.tmrCountStep.adctl = s.adctl := by
  unfold State.tmrCountStep; split <;> rfl
@[simp] theorem tmrCountStep_adsamp (s : State) : s.tmrCountStep.adsamp = s.adsamp := by
  unfold State.tmrCountStep; split <;> rfl
@[simp] theorem tmrCountStep_pwmctl (s : State) : s.tmrCountStep.pwmctl = s.pwmctl := by
  unfold State.tmrCountStep; split <;> rfl
@[simp] theorem tmrCountStep_pwmper (s : State) : s.tmrCountStep.pwmper = s.pwmper := by
  unfold State.tmrCountStep; split <;> rfl
@[simp] theorem tmrCountStep_pwmduty (s : State) : s.tmrCountStep.pwmduty = s.pwmduty := by
  unfold State.tmrCountStep; split <;> rfl
@[simp] theorem tmrCountStep_pwmtmr (s : State) : s.tmrCountStep.pwmtmr = s.pwmtmr := by
  unfold State.tmrCountStep; split <;> rfl
@[simp] theorem tmrCountStep_rsp (s : State) : s.tmrCountStep.rsp = s.rsp := by
  unfold State.tmrCountStep; split <;> rfl
@[simp] theorem tmrCountStep_events (s : State) : s.tmrCountStep.events = s.events := by
  unfold State.tmrCountStep; split <;> rfl
@[simp] theorem tmrCountStep_cfg (s : State) : s.tmrCountStep.cfg = s.cfg := by
  unfold State.tmrCountStep; split <;> rfl
@[simp] theorem tmrCountStep_tmr (s : State) :
    s.tmrCountStep.tmr = if s.tmr = 2 ^ s.cfg.tmrW - 1 then 0 else s.tmr + 1 := by
  unfold State.tmrCountStep; split <;> rfl
@[simp] theorem tmrCountStep_tbctl (s : State) :
    s.tmrCountStep.tbctl = if s.tmr = 2 ^ s.cfg.tmrW - 1 then putBit s.tbctl 2 true else s.tbctl := by
  unfold State.tmrCountStep; split <;> rfl
@[simp] theorem pwmCountStep_ticks (s : State) : s.pwmCountStep.ticks = s.ticks := by
  unfold State.pwmCountStep; split <;> rfl
@[simp] theorem pwmCountStep_tmr (s : State) : s.pwmCountStep.tmr = s.tmr := by
  unfold State.pwmCountStep; split <;> rfl
@[simp] theorem pwmCountStep_tbctl (s : State) : s.pwmCountStep.tbctl = s.tbctl := by
  unfold State.pwmCountStep; split <;> rfl
@[simp] theorem pwmCountStep_treload (s : State) : s.pwmCountStep.treload = s.treload := by
  unfold State.pwmCountStep; split <;> rfl
@[simp] theorem pwmCountStep_adctl (s : State) : s.pwmCountStep.adctl = s.adctl := by
  unfold State.pwmCountStep; split <;> rfl
@[simp] theorem pwmCountStep_adsamp (s : State) : s.pwmCountStep.adsamp = s.adsamp := by
  unfold State.pwmCountStep; split <;> rfl
@[simp] theorem pwmCountStep_pwmctl (s : State) : s.pwmCountStep.pwmctl = s.pwmctl := by
  unfold State.pwmCountStep; split <;> rfl
@[simp] theorem pwmCountStep_pwmper (s : State) : s.pwmCountStep.pwmper = s.pwmper := by
  unfold State.pwmCountStep; split <;> rfl
@[simp] theorem pwmCountStep_pwmduty (s : State) : s.pwmCountStep.pwmduty = s.pwmduty := by
  unfold State.pwmCountStep; split <;> rfl
@[simp] theorem pwmCountStep_rsp (s : State) : s.pwmCountStep.rsp = s.rsp := by
  unfold State.pwmCountStep; split <;> rfl
@[simp] theorem pwmCountStep_events (s : State) : s.pwmCountStep.events = s.events := by
  unfold State.pwmCountStep; split <;> rfl
@[simp] theorem pwmCountStep_cfg (s : State) : s.pwmCountStep.cfg = s.cfg := by
  unfold State.pwmCountStep; split <;> rfl
@[simp] theorem pwmCountStep_pwmtmr (s : State) :
    s.pwmCountStep.pwmtmr = if s.pwmper ≤ s.pwmtmr then 0 else s.pwmtmr + 1 := by
  unfold State.pwmCountStep; split <;> rfl

end Sys2Proof.Machine
end

