-- ==== Sys2Proof/Laws/Flags.lean ====
section
/-! SUPPORT. Writing one bit of a control register: what it does to each bit, and what each status bit reads after each
update (spec/10_state.md R16, R17, R19). -/

namespace Sys2Proof.Machine

theorem getLsbD_putBit {w : Nat} (v : BitVec w) (i j : Nat) (b : Bool) :
    (putBit v i b).getLsbD j = if j = i ∧ i < w then b else v.getLsbD j := by
  by_cases hj : j < w
  · unfold putBit
    have h1 : (1#w <<< i).getLsbD j = decide (j = i) := by
      simp only [BitVec.getLsbD_shiftLeft, hj, decide_true, Bool.true_and]
      by_cases hji : j < i
      · simp [hji]; omega
      · simp only [hji, decide_false, Bool.not_false, Bool.true_and, BitVec.getLsbD_one]
        by_cases h : j = i
        · subst h; simp; omega
        · simp only [h, decide_false, Bool.and_eq_false_imp]; intro _; simp; omega
    cases b <;> simp only [Bool.false_eq_true, if_true, if_false, BitVec.getLsbD_and, BitVec.getLsbD_or,
      BitVec.getLsbD_not, h1, hj, decide_true, Bool.true_and]
    all_goals by_cases h : j = i
    all_goals first | (subst h; simp [hj]) | simp [h]
  · have : ¬ (j = i ∧ i < w) := by omega
    simp only [this, if_false]
    rw [BitVec.getLsbD_of_ge _ _ (by omega), BitVec.getLsbD_of_ge _ _ (by omega)]

theorem getElem_putBit {w : Nat} (v : BitVec w) (i j : Nat) (b : Bool) (h : j < w) :
    (putBit v i b)[j] = if j = i ∧ i < w then b else v[j] := by
  have := getLsbD_putBit v i j b
  rwa [BitVec.getLsbD_eq_getElem h, BitVec.getLsbD_eq_getElem h] at this

/-- Writing a bit twice keeps the second value. -/
theorem putBit_putBit {w : Nat} (v : BitVec w) (i : Nat) (a b : Bool) : putBit (putBit v i a) i b = putBit v i b := by
  apply BitVec.eq_of_getLsbD_eq
  intro j _
  simp only [getLsbD_putBit]
  split <;> rfl

/-- Two different bits may be written in either order. -/
theorem putBit_comm {w : Nat} (v : BitVec w) {i j : Nat} (h : i ≠ j) (a b : Bool) :
    putBit (putBit v i a) j b = putBit (putBit v j b) i a := by
  apply BitVec.eq_of_getLsbD_eq
  intro k _
  simp only [getLsbD_putBit]
  split <;> split <;> first | rfl | omega

/-! A status bit after a write of a bit. -/

@[simp] theorem putTon_ton (s : State) (b : Bool) : (s.putTon b).ton = b := by
  simp [State.ton, getElem_putBit]
@[simp] theorem putTon_tie (s : State) (b : Bool) : (s.putTon b).tie = s.tie := by
  simp [State.tie, getElem_putBit]
@[simp] theorem putTon_tif (s : State) (b : Bool) : (s.putTon b).tif = s.tif := by
  simp [State.tif, getElem_putBit]
@[simp] theorem putTon_gie (s : State) (b : Bool) : (s.putTon b).gie = s.gie := by
  simp [State.gie, getElem_putBit]
@[simp] theorem putTon_adOn (s : State) (b : Bool) : (s.putTon b).adOn = s.adOn := rfl
@[simp] theorem putTon_adGo (s : State) (b : Bool) : (s.putTon b).adGo = s.adGo := rfl
@[simp] theorem putTon_adFmt (s : State) (b : Bool) : (s.putTon b).adFmt = s.adFmt := rfl
@[simp] theorem putTon_pton (s : State) (b : Bool) : (s.putTon b).pton = s.pton := rfl
@[simp] theorem putTon_ocen (s : State) (b : Bool) : (s.putTon b).ocen = s.ocen := rfl
@[simp] theorem putTie_ton (s : State) (b : Bool) : (s.putTie b).ton = s.ton := by
  simp [State.ton, getElem_putBit]
@[simp] theorem putTie_tie (s : State) (b : Bool) : (s.putTie b).tie = b := by
  simp [State.tie, getElem_putBit]
@[simp] theorem putTie_tif (s : State) (b : Bool) : (s.putTie b).tif = s.tif := by
  simp [State.tif, getElem_putBit]
@[simp] theorem putTie_gie (s : State) (b : Bool) : (s.putTie b).gie = s.gie := by
  simp [State.gie, getElem_putBit]
@[simp] theorem putTie_adOn (s : State) (b : Bool) : (s.putTie b).adOn = s.adOn := rfl
@[simp] theorem putTie_adGo (s : State) (b : Bool) : (s.putTie b).adGo = s.adGo := rfl
@[simp] theorem putTie_adFmt (s : State) (b : Bool) : (s.putTie b).adFmt = s.adFmt := rfl
@[simp] theorem putTie_pton (s : State) (b : Bool) : (s.putTie b).pton = s.pton := rfl
@[simp] theorem putTie_ocen (s : State) (b : Bool) : (s.putTie b).ocen = s.ocen := rfl
@[simp] theorem putTif_ton (s : State) (b : Bool) : (s.putTif b).ton = s.ton := by
  simp [State.ton, getElem_putBit]
@[simp] theorem putTif_tie (s : State) (b : Bool) : (s.putTif b).tie = s.tie := by
  simp [State.tie, getElem_putBit]
@[simp] theorem putTif_tif (s : State) (b : Bool) : (s.putTif b).tif = b := by
  simp [State.tif, getElem_putBit]
@[simp] theorem putTif_gie (s : State) (b : Bool) : (s.putTif b).gie = s.gie := by
  simp [State.gie, getElem_putBit]
@[simp] theorem putTif_adOn (s : State) (b : Bool) : (s.putTif b).adOn = s.adOn := rfl
@[simp] theorem putTif_adGo (s : State) (b : Bool) : (s.putTif b).adGo = s.adGo := rfl
@[simp] theorem putTif_adFmt (s : State) (b : Bool) : (s.putTif b).adFmt = s.adFmt := rfl
@[simp] theorem putTif_pton (s : State) (b : Bool) : (s.putTif b).pton = s.pton := rfl
@[simp] theorem putTif_ocen (s : State) (b : Bool) : (s.putTif b).ocen = s.ocen := rfl
@[simp] theorem putGie_ton (s : State) (b : Bool) : (s.putGie b).ton = s.ton := by
  simp [State.ton, getElem_putBit]
@[simp] theorem putGie_tie (s : State) (b : Bool) : (s.putGie b).tie = s.tie := by
  simp [State.tie, getElem_putBit]
@[simp] theorem putGie_tif (s : State) (b : Bool) : (s.putGie b).tif = s.tif := by
  simp [State.tif, getElem_putBit]
@[simp] theorem putGie_gie (s : State) (b : Bool) : (s.putGie b).gie = b := by
  simp [State.gie, getElem_putBit]
@[simp] theorem putGie_adOn (s : State) (b : Bool) : (s.putGie b).adOn = s.adOn := rfl
@[simp] theorem putGie_adGo (s : State) (b : Bool) : (s.putGie b).adGo = s.adGo := rfl
@[simp] theorem putGie_adFmt (s : State) (b : Bool) : (s.putGie b).adFmt = s.adFmt := rfl
@[simp] theorem putGie_pton (s : State) (b : Bool) : (s.putGie b).pton = s.pton := rfl
@[simp] theorem putGie_ocen (s : State) (b : Bool) : (s.putGie b).ocen = s.ocen := rfl
@[simp] theorem putAdOn_ton (s : State) (b : Bool) : (s.putAdOn b).ton = s.ton := rfl
@[simp] theorem putAdOn_tie (s : State) (b : Bool) : (s.putAdOn b).tie = s.tie := rfl
@[simp] theorem putAdOn_tif (s : State) (b : Bool) : (s.putAdOn b).tif = s.tif := rfl
@[simp] theorem putAdOn_gie (s : State) (b : Bool) : (s.putAdOn b).gie = s.gie := rfl
@[simp] theorem putAdOn_adOn (s : State) (b : Bool) : (s.putAdOn b).adOn = b := by
  simp [State.adOn, getElem_putBit]
@[simp] theorem putAdOn_adGo (s : State) (b : Bool) : (s.putAdOn b).adGo = s.adGo := by
  simp [State.adGo, getElem_putBit]
@[simp] theorem putAdOn_adFmt (s : State) (b : Bool) : (s.putAdOn b).adFmt = s.adFmt := by
  simp [State.adFmt, getElem_putBit]
@[simp] theorem putAdOn_pton (s : State) (b : Bool) : (s.putAdOn b).pton = s.pton := rfl
@[simp] theorem putAdOn_ocen (s : State) (b : Bool) : (s.putAdOn b).ocen = s.ocen := rfl
@[simp] theorem putAdGo_ton (s : State) (b : Bool) : (s.putAdGo b).ton = s.ton := rfl
@[simp] theorem putAdGo_tie (s : State) (b : Bool) : (s.putAdGo b).tie = s.tie := rfl
@[simp] theorem putAdGo_tif (s : State) (b : Bool) : (s.putAdGo b).tif = s.tif := rfl
@[simp] theorem putAdGo_gie (s : State) (b : Bool) : (s.putAdGo b).gie = s.gie := rfl
@[simp] theorem putAdGo_adOn (s : State) (b : Bool) : (s.putAdGo b).adOn = s.adOn := by
  simp [State.adOn, getElem_putBit]
@[simp] theorem putAdGo_adGo (s : State) (b : Bool) : (s.putAdGo b).adGo = b := by
  simp [State.adGo, getElem_putBit]
@[simp] theorem putAdGo_adFmt (s : State) (b : Bool) : (s.putAdGo b).adFmt = s.adFmt := by
  simp [State.adFmt, getElem_putBit]
@[simp] theorem putAdGo_pton (s : State) (b : Bool) : (s.putAdGo b).pton = s.pton := rfl
@[simp] theorem putAdGo_ocen (s : State) (b : Bool) : (s.putAdGo b).ocen = s.ocen := rfl
@[simp] theorem putAdFmt_ton (s : State) (b : Bool) : (s.putAdFmt b).ton = s.ton := rfl
@[simp] theorem putAdFmt_tie (s : State) (b : Bool) : (s.putAdFmt b).tie = s.tie := rfl
@[simp] theorem putAdFmt_tif (s : State) (b : Bool) : (s.putAdFmt b).tif = s.tif := rfl
@[simp] theorem putAdFmt_gie (s : State) (b : Bool) : (s.putAdFmt b).gie = s.gie := rfl
@[simp] theorem putAdFmt_adOn (s : State) (b : Bool) : (s.putAdFmt b).adOn = s.adOn := by
  simp [State.adOn, getElem_putBit]
@[simp] theorem putAdFmt_adGo (s : State) (b : Bool) : (s.putAdFmt b).adGo = s.adGo := by
  simp [State.adGo, getElem_putBit]
@[simp] theorem putAdFmt_adFmt (s : State) (b : Bool) : (s.putAdFmt b).adFmt = b := by
  simp [State.adFmt, getElem_putBit]
@[simp] theorem putAdFmt_pton (s : State) (b : Bool) : (s.putAdFmt b).pton = s.pton := rfl
@[simp] theorem putAdFmt_ocen (s : State) (b : Bool) : (s.putAdFmt b).ocen = s.ocen := rfl
@[simp] theorem putPton_ton (s : State) (b : Bool) : (s.putPton b).ton = s.ton := rfl
@[simp] theorem putPton_tie (s : State) (b : Bool) : (s.putPton b).tie = s.tie := rfl
@[simp] theorem putPton_tif (s : State) (b : Bool) : (s.putPton b).tif = s.tif := rfl
@[simp] theorem putPton_gie (s : State) (b : Bool) : (s.putPton b).gie = s.gie := rfl
@[simp] theorem putPton_adOn (s : State) (b : Bool) : (s.putPton b).adOn = s.adOn := rfl
@[simp] theorem putPton_adGo (s : State) (b : Bool) : (s.putPton b).adGo = s.adGo := rfl
@[simp] theorem putPton_adFmt (s : State) (b : Bool) : (s.putPton b).adFmt = s.adFmt := rfl
@[simp] theorem putPton_pton (s : State) (b : Bool) : (s.putPton b).pton = b := by
  simp [State.pton, getElem_putBit]
@[simp] theorem putPton_ocen (s : State) (b : Bool) : (s.putPton b).ocen = s.ocen := by
  simp [State.ocen, getElem_putBit]
@[simp] theorem putOcen_ton (s : State) (b : Bool) : (s.putOcen b).ton = s.ton := rfl
@[simp] theorem putOcen_tie (s : State) (b : Bool) : (s.putOcen b).tie = s.tie := rfl
@[simp] theorem putOcen_tif (s : State) (b : Bool) : (s.putOcen b).tif = s.tif := rfl
@[simp] theorem putOcen_gie (s : State) (b : Bool) : (s.putOcen b).gie = s.gie := rfl
@[simp] theorem putOcen_adOn (s : State) (b : Bool) : (s.putOcen b).adOn = s.adOn := rfl
@[simp] theorem putOcen_adGo (s : State) (b : Bool) : (s.putOcen b).adGo = s.adGo := rfl
@[simp] theorem putOcen_adFmt (s : State) (b : Bool) : (s.putOcen b).adFmt = s.adFmt := rfl
@[simp] theorem putOcen_pton (s : State) (b : Bool) : (s.putOcen b).pton = s.pton := by
  simp [State.pton, getElem_putBit]
@[simp] theorem putOcen_ocen (s : State) (b : Bool) : (s.putOcen b).ocen = b := by
  simp [State.ocen, getElem_putBit]

/-! A status bit after the updates that write no control register. -/

@[simp] theorem respond_ton (s : State) {w : Nat} (d : BitVec w) : (s.respond d).ton = s.ton := rfl
@[simp] theorem respond_tie (s : State) {w : Nat} (d : BitVec w) : (s.respond d).tie = s.tie := rfl
@[simp] theorem respond_tif (s : State) {w : Nat} (d : BitVec w) : (s.respond d).tif = s.tif := rfl
@[simp] theorem respond_gie (s : State) {w : Nat} (d : BitVec w) : (s.respond d).gie = s.gie := rfl
@[simp] theorem respond_adOn (s : State) {w : Nat} (d : BitVec w) : (s.respond d).adOn = s.adOn := rfl
@[simp] theorem respond_adGo (s : State) {w : Nat} (d : BitVec w) : (s.respond d).adGo = s.adGo := rfl
@[simp] theorem respond_adFmt (s : State) {w : Nat} (d : BitVec w) : (s.respond d).adFmt = s.adFmt := rfl
@[simp] theorem respond_pton (s : State) {w : Nat} (d : BitVec w) : (s.respond d).pton = s.pton := rfl
@[simp] theorem respond_ocen (s : State) {w : Nat} (d : BitVec w) : (s.respond d).ocen = s.ocen := rfl
@[simp] theorem respondNone_ton (s : State) : (s.respondNone).ton = s.ton := rfl
@[simp] theorem respondNone_tie (s : State) : (s.respondNone).tie = s.tie := rfl
@[simp] theorem respondNone_tif (s : State) : (s.respondNone).tif = s.tif := rfl
@[simp] theorem respondNone_gie (s : State) : (s.respondNone).gie = s.gie := rfl
@[simp] theorem respondNone_adOn (s : State) : (s.respondNone).adOn = s.adOn := rfl
@[simp] theorem respondNone_adGo (s : State) : (s.respondNone).adGo = s.adGo := rfl
@[simp] theorem respondNone_adFmt (s : State) : (s.respondNone).adFmt = s.adFmt := rfl
@[simp] theorem respondNone_pton (s : State) : (s.respondNone).pton = s.pton := rfl
@[simp] theorem respondNone_ocen (s : State) : (s.respondNone).ocen = s.ocen := rfl
@[simp] theorem raiseIllegalCommand_ton (s : State) : (s.raiseIllegalCommand).ton = s.ton := rfl
@[simp] theorem raiseIllegalCommand_tie (s : State) : (s.raiseIllegalCommand).tie = s.tie := rfl
@[simp] theorem raiseIllegalCommand_tif (s : State) : (s.raiseIllegalCommand).tif = s.tif := rfl
@[simp] theorem raiseIllegalCommand_gie (s : State) : (s.raiseIllegalCommand).gie = s.gie := rfl
@[simp] theorem raiseIllegalCommand_adOn (s : State) : (s.raiseIllegalCommand).adOn = s.adOn := rfl
@[simp] theorem raiseIllegalCommand_adGo (s : State) : (s.raiseIllegalCommand).adGo = s.adGo := rfl
@[simp] theorem raiseIllegalCommand_adFmt (s : State) : (s.raiseIllegalCommand).adFmt = s.adFmt := rfl
@[simp] theorem raiseIllegalCommand_pton (s : State) : (s.raiseIllegalCommand).pton = s.pton := rfl
@[simp] theorem raiseIllegalCommand_ocen (s : State) : (s.raiseIllegalCommand).ocen = s.ocen := rfl
@[simp] theorem rspIdle_ton (s : State) : (s.rspIdle).ton = s.ton := rfl
@[simp] theorem rspIdle_tie (s : State) : (s.rspIdle).tie = s.tie := rfl
@[simp] theorem rspIdle_tif (s : State) : (s.rspIdle).tif = s.tif := rfl
@[simp] theorem rspIdle_gie (s : State) : (s.rspIdle).gie = s.gie := rfl
@[simp] theorem rspIdle_adOn (s : State) : (s.rspIdle).adOn = s.adOn := rfl
@[simp] theorem rspIdle_adGo (s : State) : (s.rspIdle).adGo = s.adGo := rfl
@[simp] theorem rspIdle_adFmt (s : State) : (s.rspIdle).adFmt = s.adFmt := rfl
@[simp] theorem rspIdle_pton (s : State) : (s.rspIdle).pton = s.pton := rfl
@[simp] theorem rspIdle_ocen (s : State) : (s.rspIdle).ocen = s.ocen := rfl
@[simp] theorem offerCommand_ton (s : State) (w : CommandWord) : (s.offerCommand w).ton = s.ton := rfl
@[simp] theorem offerCommand_tie (s : State) (w : CommandWord) : (s.offerCommand w).tie = s.tie := rfl
@[simp] theorem offerCommand_tif (s : State) (w : CommandWord) : (s.offerCommand w).tif = s.tif := rfl
@[simp] theorem offerCommand_gie (s : State) (w : CommandWord) : (s.offerCommand w).gie = s.gie := rfl
@[simp] theorem offerCommand_adOn (s : State) (w : CommandWord) : (s.offerCommand w).adOn = s.adOn := rfl
@[simp] theorem offerCommand_adGo (s : State) (w : CommandWord) : (s.offerCommand w).adGo = s.adGo := rfl
@[simp] theorem offerCommand_adFmt (s : State) (w : CommandWord) : (s.offerCommand w).adFmt = s.adFmt := rfl
@[simp] theorem offerCommand_pton (s : State) (w : CommandWord) : (s.offerCommand w).pton = s.pton := rfl
@[simp] theorem offerCommand_ocen (s : State) (w : CommandWord) : (s.offerCommand w).ocen = s.ocen := rfl

/-! A status bit after arming, after the handler, and after the agents' steps. -/

@[simp] theorem armTick_ton (s : State) : s.armTick.ton = true := by
  simp [State.ton, getElem_putBit]
@[simp] theorem armTick_tie (s : State) : s.armTick.tie = true := by
  simp [State.tie, getElem_putBit]
@[simp] theorem armTick_tif (s : State) : s.armTick.tif = false := by
  simp [State.tif, getElem_putBit]
@[simp] theorem armTick_gie (s : State) : s.armTick.gie = s.gie := by
  simp [State.gie, getElem_putBit]
@[simp] theorem armTick_adOn (s : State) : s.armTick.adOn = s.adOn := rfl
@[simp] theorem armTick_adGo (s : State) : s.armTick.adGo = s.adGo := rfl
@[simp] theorem armTick_adFmt (s : State) : s.armTick.adFmt = s.adFmt := rfl
@[simp] theorem armTick_pton (s : State) : s.armTick.pton = s.pton := rfl
@[simp] theorem armTick_ocen (s : State) : s.armTick.ocen = s.ocen := rfl
@[simp] theorem takeTickInterrupt_ton (s : State) : s.takeTickInterrupt.ton = s.ton := by
  simp [State.ton, getElem_putBit]
@[simp] theorem takeTickInterrupt_tie (s : State) : s.takeTickInterrupt.tie = s.tie := by
  simp [State.tie, getElem_putBit]
@[simp] theorem takeTickInterrupt_tif (s : State) : s.takeTickInterrupt.tif = false := by
  simp [State.tif, getElem_putBit]
@[simp] theorem takeTickInterrupt_gie (s : State) : s.takeTickInterrupt.gie = s.gie := by
  simp [State.gie, getElem_putBit]
@[simp] theorem takeTickInterrupt_adOn (s : State) : s.takeTickInterrupt.adOn = s.adOn := rfl
@[simp] theorem takeTickInterrupt_adGo (s : State) : s.takeTickInterrupt.adGo = s.adGo := rfl
@[simp] theorem takeTickInterrupt_adFmt (s : State) : s.takeTickInterrupt.adFmt = s.adFmt := rfl
@[simp] theorem takeTickInterrupt_pton (s : State) : s.takeTickInterrupt.pton = s.pton := rfl
@[simp] theorem takeTickInterrupt_ocen (s : State) : s.takeTickInterrupt.ocen = s.ocen := rfl
@[simp] theorem adcDoneStep_ton (s : State) (x : BitVec 10) : (s.adcDoneStep x).ton = s.ton := rfl
@[simp] theorem adcDoneStep_tie (s : State) (x : BitVec 10) : (s.adcDoneStep x).tie = s.tie := rfl
@[simp] theorem adcDoneStep_tif (s : State) (x : BitVec 10) : (s.adcDoneStep x).tif = s.tif := rfl
@[simp] theorem adcDoneStep_gie (s : State) (x : BitVec 10) : (s.adcDoneStep x).gie = s.gie := rfl
@[simp] theorem adcDoneStep_adOn (s : State) (x : BitVec 10) : (s.adcDoneStep x).adOn = s.adOn := by
  simp [State.adOn, getElem_putBit]
@[simp] theorem adcDoneStep_adGo (s : State) (x : BitVec 10) : (s.adcDoneStep x).adGo = false := by
  simp [State.adGo, getElem_putBit]
@[simp] theorem adcDoneStep_adFmt (s : State) (x : BitVec 10) : (s.adcDoneStep x).adFmt = s.adFmt := by
  simp [State.adFmt, getElem_putBit]
@[simp] theorem adcDoneStep_pton (s : State) (x : BitVec 10) : (s.adcDoneStep x).pton = s.pton := rfl
@[simp] theorem adcDoneStep_ocen (s : State) (x : BitVec 10) : (s.adcDoneStep x).ocen = s.ocen := rfl
@[simp] theorem pwmCountStep_ton (s : State) : s.pwmCountStep.ton = s.ton := by
  simp [State.ton]
@[simp] theorem pwmCountStep_tie (s : State) : s.pwmCountStep.tie = s.tie := by
  simp [State.tie]
@[simp] theorem pwmCountStep_tif (s : State) : s.pwmCountStep.tif = s.tif := by
  simp [State.tif]
@[simp] theorem pwmCountStep_gie (s : State) : s.pwmCountStep.gie = s.gie := by
  simp [State.gie]
@[simp] theorem pwmCountStep_adOn (s : State) : s.pwmCountStep.adOn = s.adOn := by
  simp [State.adOn]
@[simp] theorem pwmCountStep_adGo (s : State) : s.pwmCountStep.adGo = s.adGo := by
  simp [State.adGo]
@[simp] theorem pwmCountStep_adFmt (s : State) : s.pwmCountStep.adFmt = s.adFmt := by
  simp [State.adFmt]
@[simp] theorem pwmCountStep_pton (s : State) : s.pwmCountStep.pton = s.pton := by
  simp [State.pton]
@[simp] theorem pwmCountStep_ocen (s : State) : s.pwmCountStep.ocen = s.ocen := by
  simp [State.ocen]
@[simp] theorem tmrCountStep_ton (s : State) : s.tmrCountStep.ton = s.ton := by
  simp only [State.ton, tmrCountStep_tbctl]; split <;> simp [getElem_putBit]
@[simp] theorem tmrCountStep_tie (s : State) : s.tmrCountStep.tie = s.tie := by
  simp only [State.tie, tmrCountStep_tbctl]; split <;> simp [getElem_putBit]
@[simp] theorem tmrCountStep_tif (s : State) :
    s.tmrCountStep.tif = (decide (s.tmr = 2 ^ s.cfg.tmrW - 1) || s.tif) := by
  simp only [State.tif, tmrCountStep_tbctl]; split <;> simp [getElem_putBit, *]
@[simp] theorem tmrCountStep_gie (s : State) : s.tmrCountStep.gie = s.gie := by
  simp only [State.gie, tmrCountStep_tbctl]; split <;> simp [getElem_putBit]
@[simp] theorem tmrCountStep_adOn (s : State) : s.tmrCountStep.adOn = s.adOn := by
  simp [State.adOn]
@[simp] theorem tmrCountStep_adGo (s : State) : s.tmrCountStep.adGo = s.adGo := by
  simp [State.adGo]
@[simp] theorem tmrCountStep_adFmt (s : State) : s.tmrCountStep.adFmt = s.adFmt := by
  simp [State.adFmt]
@[simp] theorem tmrCountStep_pton (s : State) : s.tmrCountStep.pton = s.pton := by
  simp [State.pton]
@[simp] theorem tmrCountStep_ocen (s : State) : s.tmrCountStep.ocen = s.ocen := by
  simp [State.ocen]

end Sys2Proof.Machine
end

