-- ==== Sys2Proof/Laws/Ops.lean ====
section
/-! SUPPORT. What each shared operation, each command and one step can do, said once: every command answers a next
state, what no command touches, and how a run unfolds by one step. -/

namespace Sys2Proof.Machine

/-! Each arm of `exec`. -/

@[simp] theorem exec_rdreg (n : BitVec 4) (s : State) : exec (.rdreg n) s = execRdreg n s := rfl
@[simp] theorem exec_tbArm (s : State) : exec .tbArm s = .next s.armTick.respondNone := rfl
@[simp] theorem exec_tbIrqOn (s : State) : exec .tbIrqOn s = .next (s.putTie true).respondNone := rfl
@[simp] theorem exec_tbIrqOff (s : State) : exec .tbIrqOff s = .next (s.putTie false).respondNone := rfl
@[simp] theorem exec_gieOn (s : State) : exec .gieOn s = .next (s.putGie true).respondNone := rfl
@[simp] theorem exec_gieOff (s : State) : exec .gieOff s = .next (s.putGie false).respondNone := rfl
@[simp] theorem exec_millis (s : State) : exec .millis s = .next (s.respond s.ticks) := rfl
@[simp] theorem exec_elapsed (a : BitVec 32) (s : State) :
    exec (.elapsed a) s = .next (s.respond (elapsedTicks s.ticks a)) := rfl
@[simp] theorem exec_tcmp (a d : BitVec 32) (s : State) :
    exec (.tcmp a d) s = .next (s.respond (BitVec.ofBool (durationReached s.ticks a d))) := rfl
@[simp] theorem exec_adcSelect (ch : BitVec 8) (s : State) :
    exec (.adcSelect ch) s = .next ((s.putAdChs ch).putAdOn true).respondNone := rfl
@[simp] theorem exec_adcJustR (s : State) : exec .adcJustR s = .next (s.putAdFmt false).respondNone := rfl
@[simp] theorem exec_adcJustL (s : State) : exec .adcJustL s = .next (s.putAdFmt true).respondNone := rfl
@[simp] theorem exec_adcGo (s : State) : exec .adcGo s = .next (s.putAdGo true).respondNone := rfl
@[simp] theorem exec_adcPoll (s : State) : exec .adcPoll s = .next (s.respond (BitVec.ofBool s.adGo)) := rfl
@[simp] theorem exec_adcResult (s : State) : exec .adcResult s = .next (s.respond s.adres) := rfl
@[simp] theorem exec_adcResultHi (s : State) :
    exec .adcResultHi s = .next (s.respond (s.adres.extractLsb' 8 8)) := rfl
@[simp] theorem exec_adcOff (s : State) : exec .adcOff s = .next (s.putAdOn false).respondNone := rfl
@[simp] theorem exec_pwmStart (f : BitVec 16) (s : State) : exec (.pwmStart f) s = execPwmStart f s := rfl
@[simp] theorem exec_pwmEnable (s : State) : exec .pwmEnable s = .next (s.putOcen true).respondNone := rfl
@[simp] theorem exec_pwmDisable (s : State) : exec .pwmDisable s = .next (s.putOcen false).respondNone := rfl
@[simp] theorem exec_pwmStop (s : State) :
    exec .pwmStop s = .next ((s.putOcen false).putPton false).respondNone := rfl

/-- `RDREG` changes nothing but the response. -/
theorem execRdreg_spec (n : BitVec 4) (s : State) : ∃ r, execRdreg n s = .next { s with rsp := some r } := by
  unfold execRdreg; split <;> exact ⟨_, rfl⟩

/-- The two cases of `PWM_START`. -/
theorem execPwmStart_zero (s : State) : execPwmStart 0 s = .next s.respondNone := by simp [execPwmStart]

theorem execPwmStart_nonzero (f : BitVec 16) (s : State) (h : f ≠ 0) :
    execPwmStart f s =
      .next ((({ s with pwmper := BitVec.ofNat 8 (pwmPeriod s.cfg f.toNat)
                        pwmduty := BitVec.ofNat 8 (pwmDutyOf (pwmPeriod s.cfg f.toNat)) }
        : State).putPton true).putOcen true).respondNone := by
  unfold execPwmStart; rw [if_neg h]

/-- Every command answers a next state, with a response, and touches neither TICKS, TRELOAD, ADSAMP, PWMTMR nor the
model's own fields. -/
theorem exec_spec (i : Instr) (s : State) :
    ∃ t r, exec i s = .next t ∧ t.rsp = some r ∧ t.ticks = s.ticks ∧ t.treload = s.treload ∧ t.adsamp = s.adsamp
      ∧ t.pwmtmr = s.pwmtmr ∧ t.events = s.events ∧ t.cfg = s.cfg := by
  cases i
  case rdreg n => obtain ⟨r, h⟩ := execRdreg_spec n s; exact ⟨_, r, h, rfl, rfl, rfl, rfl, rfl, rfl, rfl⟩
  case pwmStart f =>
    by_cases h : f = 0
    · subst h; exact ⟨_, _, execPwmStart_zero s, rfl, rfl, rfl, rfl, rfl, rfl, rfl⟩
    · exact ⟨_, _, execPwmStart_nonzero f s h, rfl, rfl, rfl, rfl, rfl, rfl, rfl⟩
  all_goals exact ⟨_, _, rfl, rfl, rfl, rfl, rfl, rfl, rfl, rfl⟩

/-! The view ADRES, the scaler, the channel mask. -/

/-- A left-justified sample as a number. -/
theorem toNat_append_zero6 (x : BitVec 10) : (x ++ 0#6).toNat = x.toNat * 64 := by
  rw [BitVec.toNat_append]
  simp [Nat.shiftLeft_eq]

/-- The period fits its register, whatever the configuration. -/
theorem pwmPeriod_le (c : Config) (f : Nat) : pwmPeriod c f ≤ 255 := Nat.min_le_right _ _

/-- The duty of a period that fits its register fits its own. -/
theorem pwmDutyOf_le {per : Nat} (h : per ≤ 255) : pwmDutyOf per ≤ 128 := by unfold pwmDutyOf; omega

/-- The channel mask of a well-formed configuration holds none of ON, GO and FMT. -/
theorem mask_bits {c : Config} (h : c.WellFormed) :
    c.adcChsMask.getLsbD 0 = false ∧ c.adcChsMask.getLsbD 1 = false ∧ c.adcChsMask.getLsbD 7 = false := by
  have hm : c.adcChsMask &&& 0x83#8 = 0#8 := h.2.2.2.2.1
  refine ⟨?_, ?_, ?_⟩
  · simpa using congrArg (fun v => v.getLsbD 0) hm
  · simpa using congrArg (fun v => v.getLsbD 1) hm
  · simpa using congrArg (fun v => v.getLsbD 7) hm

/-- So selecting a channel keeps GO and FMT. -/
theorem putAdChs_adGo {s : State} (h : s.cfg.WellFormed) (ch : BitVec 8) : (s.putAdChs ch).adGo = s.adGo := by
  obtain ⟨-, h1, -⟩ := mask_bits h
  simp only [State.putAdChs, State.adGo, BitVec.getLsbD_or, BitVec.getLsbD_and, BitVec.getLsbD_not, h1]; simp

theorem putAdChs_adFmt {s : State} (h : s.cfg.WellFormed) (ch : BitVec 8) : (s.putAdChs ch).adFmt = s.adFmt := by
  obtain ⟨-, -, h7⟩ := mask_bits h
  simp only [State.putAdChs, State.adFmt, BitVec.getLsbD_or, BitVec.getLsbD_and, BitVec.getLsbD_not, h7]; simp

/-- After a channel is selected its masked bits are what CHS reads. -/
theorem putAdChs_adChs (s : State) (ch : BitVec 8) : (s.putAdChs ch).adChs = ch &&& s.cfg.adcChsMask := by
  simp only [State.putAdChs, State.adChs]
  ext j hj
  simp only [BitVec.getElem_and, BitVec.getElem_or, BitVec.getElem_not]
  cases s.cfg.adcChsMask[j] <;> simp

/-- Writing ON, GO or FMT leaves the bits under a mask that holds none of them. -/
theorem putBit_and_mask {c : Config} (h : c.WellFormed) (v : BitVec 8) (b : Bool) :
    putBit v 0 b &&& c.adcChsMask = v &&& c.adcChsMask ∧ putBit v 1 b &&& c.adcChsMask = v &&& c.adcChsMask
      ∧ putBit v 7 b &&& c.adcChsMask = v &&& c.adcChsMask := by
  obtain ⟨h0, h1, h7⟩ := mask_bits h
  refine ⟨?_, ?_, ?_⟩ <;>
  · apply BitVec.eq_of_getLsbD_eq
    intro j hj
    simp only [BitVec.getLsbD_and, getLsbD_putBit]
    split
    · rename_i hh; obtain ⟨rfl, -⟩ := hh; simp only [h0, h1, h7, Bool.and_false]
    · rfl

/-! One step. -/

theorem step_nil {s : State} (h : s.events = []) : step s = .next s.rspIdle := by simp [step, h]

theorem step_cons {s : State} {e : Event} {rest : List Event} (h : s.events = e :: rest) :
    step s = takeEvent e { s with events := rest } := by simp [step, h]

theorem acceptCommand_command {w : CommandWord} {i : Instr} (s : State) (h : decode w = .command i) :
    acceptCommand w s = exec i s := by simp [acceptCommand, h]

theorem acceptCommand_illegal {w : CommandWord} {r : IllegalReason} (s : State) (h : decode w = .illegal r) :
    acceptCommand w s = .next s.raiseIllegalCommand := by simp [acceptCommand, h]

/-- An agent's step where it is enabled, and where it is not. -/
theorem hardwareStep_enabled {e : HwEvent} {s : State} (h : e.enabled s = true) :
    hardwareStep e s = e.effect s.rspIdle := by simp [hardwareStep, h]

theorem hardwareStep_disabled {e : HwEvent} {s : State} (h : e.enabled s = false) :
    hardwareStep e s = s.rspIdle := by simp [hardwareStep, h]

/-- An agent's step gives no response and keeps the model's own fields. -/
theorem hardwareStep_spec (e : HwEvent) (s : State) :
    (hardwareStep e s).rsp = none ∧ (hardwareStep e s).events = s.events ∧ (hardwareStep e s).cfg = s.cfg := by
  cases h : e.enabled s
  · simp [hardwareStep_disabled h]
  · cases e <;> simp [hardwareStep_enabled h, HwEvent.effect]

/-- Taking an event always answers a next state, and keeps the offered events and the configuration. -/
theorem takeEvent_spec (e : Event) (s : State) :
    ∃ t, takeEvent e s = .next t ∧ t.events = s.events ∧ t.cfg = s.cfg := by
  cases e with
  | hw h => exact ⟨_, rfl, (hardwareStep_spec h s).2⟩
  | cmd w =>
    simp only [takeEvent]
    cases hd : decode w with
    | illegal r => exact ⟨_, acceptCommand_illegal s hd, rfl, rfl⟩
    | command i =>
      obtain ⟨t, -, h, -, -, -, -, -, he, hc⟩ := exec_spec i s
      exact ⟨t, by rw [acceptCommand_command s hd, h], he, hc⟩

/-- Whether an agent's step is enabled does not depend on what is offered or on the response port. -/
@[simp] theorem enabled_offer (e : HwEvent) (s : State) (es : List Event) :
    e.enabled { s with events := es } = e.enabled s := by cases e <;> rfl

@[simp] theorem enabled_rspIdle (e : HwEvent) (s : State) : e.enabled s.rspIdle = e.enabled s := by cases e <;> rfl

/-- What is offered next plays no part in a command's meaning. -/
theorem exec_offer (i : Instr) (s : State) (es : List Event) :
    ∃ u, exec i s = .next u ∧ exec i { s with events := es } = .next { u with events := es } := by
  cases i with
  | rdreg n =>
    simp only [exec_rdreg, execRdreg]
    have : readReg { s with events := es } n = readReg s n := rfl
    rw [this]; split <;> exact ⟨_, rfl, rfl⟩
  | pwmStart f =>
    by_cases h : f = 0
    · subst h; exact ⟨_, rfl, rfl⟩
    · exact ⟨_, execPwmStart_nonzero f s h, execPwmStart_nonzero f _ h⟩
  | _ => exact ⟨_, rfl, rfl⟩

/-- Nor in an agent's step, and neither does the response port. -/
theorem effect_offer (e : HwEvent) (s : State) (es : List Event) :
    e.effect ({ s with events := es } : State).rspIdle = { e.effect s with rsp := none, events := es } := by
  cases e with
  | tmrCount =>
    simp only [HwEvent.effect, State.tmrCountStep]
    by_cases h : s.tmr = 2 ^ s.cfg.tmrW - 1
    · rw [if_pos h]; exact if_pos h
    · rw [if_neg h]; exact if_neg h
  | pwmCount =>
    simp only [HwEvent.effect, State.pwmCountStep]
    by_cases h : s.pwmper ≤ s.pwmtmr
    · rw [if_pos h]; exact if_pos h
    · rw [if_neg h]; exact if_neg h
  | _ => rfl

/-- Everything one step can do: nothing is offered; an illegal word; a command; an agent's step taken; an agent's step
offered where it is not enabled. -/
theorem step_cases {s t : State} (h : step s = .next t) :
    (s.events = [] ∧ s.nextCommand = none ∧ s.nextAgent = none ∧ t = { s with rsp := none })
    ∨ (∃ w rest r, s.events = .cmd w :: rest ∧ decode w = .illegal r ∧ s.nextCommand = none ∧ s.nextAgent = none
        ∧ t = { s with rsp := some ⟨true, 0⟩, events := rest })
    ∨ (∃ w rest i u, s.events = .cmd w :: rest ∧ decode w = .command i ∧ s.nextCommand = some i ∧ s.nextAgent = none
        ∧ exec i s = .next u ∧ t = { u with events := rest })
    ∨ (∃ e rest, s.events = .hw e :: rest ∧ e.enabled s = true ∧ s.nextCommand = none ∧ s.nextAgent = some e
        ∧ t = { e.effect s with rsp := none, events := rest })
    ∨ (∃ e rest, s.events = .hw e :: rest ∧ e.enabled s = false ∧ s.nextCommand = none ∧ s.nextAgent = none
        ∧ t = { s with rsp := none, events := rest }) := by
  cases he : s.events with
  | nil =>
    rw [step_nil he] at h
    refine .inl ⟨rfl, by simp [State.nextCommand, he], by simp [State.nextAgent, he], ?_⟩
    simpa [State.rspIdle, he] using h.symm
  | cons e rest =>
    rw [step_cons he] at h
    cases e with
    | cmd w =>
      simp only [takeEvent] at h
      cases hd : decode w with
      | illegal r =>
        rw [acceptCommand_illegal _ hd] at h; cases h
        exact .inr (.inl ⟨w, rest, r, rfl, hd, by simp [State.nextCommand, he, hd], by simp [State.nextAgent, he], rfl⟩)
      | command i =>
        obtain ⟨u, hu, hr⟩ := exec_offer i s rest
        rw [acceptCommand_command _ hd, hr] at h; cases h
        exact .inr (.inr (.inl ⟨w, rest, i, u, rfl, hd, by simp [State.nextCommand, he, hd],
          by simp [State.nextAgent, he], hu, rfl⟩))
    | hw e =>
      simp only [takeEvent] at h
      cases h
      cases hen : e.enabled s with
      | true =>
        refine .inr (.inr (.inr (.inl ⟨e, rest, rfl, hen, by simp [State.nextCommand, he],
          by simp [State.nextAgent, he, hen], ?_⟩)))
        rw [hardwareStep_enabled (by simpa using hen), effect_offer]
      | false =>
        refine .inr (.inr (.inr (.inr ⟨e, rest, rfl, hen, by simp [State.nextCommand, he],
          by simp [State.nextAgent, he, hen], ?_⟩)))
        exact hardwareStep_disabled (by simpa using hen)

/-! Runs. -/

@[simp] theorem reaches_zero {s t : State} : Reaches 0 s t ↔ s = t := by
  simp only [Reaches, Host.Core.run]
  exact ⟨fun h => by cases h; rfl, fun h => by rw [h]⟩

/-- A run of `n + 1` steps is one step and a run of `n`. -/
theorem reaches_succ {n : Nat} {s t : State} :
    Reaches (n + 1) s t ↔ ∃ u, step s = .next u ∧ Reaches n u t := by
  simp only [Reaches, Host.Core.run, core]
  cases h : step s with
  | next u => exact ⟨fun hu => ⟨u, rfl, hu⟩, fun ⟨v, hv, hr⟩ => by cases hv; exact hr⟩
  | fault f => cases f
  | refused r => exact ⟨fun h => (by cases h), fun ⟨v, hv, _⟩ => by cases hv⟩

end Sys2Proof.Machine
end

