-- ==== Sys2Proof/Laws/Host.lean ====
section
/-! SUPPORT. What the host layer can do, said once: its record updates, one issued command, one host action, one entry
of a schedule. -/

namespace Sys2Proof.Machine

@[simp] theorem withVars_ttb (y : System) (vars : List (HostVar × Int)) : (y.withVars vars).ttb = y.ttb := rfl
@[simp] theorem withVars_buz (y : System) (vars : List (HostVar × Int)) : (y.withVars vars).host.buz = y.host.buz := rfl
@[simp] theorem withVars_code (y : System) (vars : List (HostVar × Int)) :
    (y.withVars vars).host.frame.code = y.host.frame.code := rfl
@[simp] theorem withVars_vars (y : System) (vars : List (HostVar × Int)) :
    (y.withVars vars).host.frame.vars = vars := rfl
@[simp] theorem withVars_callers (y : System) (vars : List (HostVar × Int)) :
    (y.withVars vars).host.callers = y.host.callers := rfl
@[simp] theorem withVars_returned (y : System) (vars : List (HostVar × Int)) :
    (y.withVars vars).host.returned = y.host.returned := rfl
@[simp] theorem withCode_ttb (y : System) (code : List Stmt) : (y.withCode code).ttb = y.ttb := rfl
@[simp] theorem withCode_buz (y : System) (code : List Stmt) : (y.withCode code).host.buz = y.host.buz := rfl
@[simp] theorem withCode_code (y : System) (code : List Stmt) : (y.withCode code).host.frame.code = code := rfl
@[simp] theorem withCode_vars (y : System) (code : List Stmt) :
    (y.withCode code).host.frame.vars = y.host.frame.vars := rfl
@[simp] theorem withCode_callers (y : System) (code : List Stmt) :
    (y.withCode code).host.callers = y.host.callers := rfl
@[simp] theorem withCode_returned (y : System) (code : List Stmt) :
    (y.withCode code).host.returned = y.host.returned := rfl

/-- A return touches neither the block nor BUZ. -/
@[simp] theorem returnValue_ttb (y : System) (x : Option Int) : (y.returnValue x).ttb = y.ttb := by
  unfold System.returnValue; split <;> rfl
@[simp] theorem returnValue_buz (y : System) (x : Option Int) : (y.returnValue x).host.buz = y.host.buz := by
  unfold System.returnValue; split <;> rfl

/-- A word offered first runs first, on the state as it was. -/
theorem step_offerCommand (s : State) (w : CommandWord) : step (s.offerCommand w) = acceptCommand w s := rfl

/-- Everything one issued command can do. -/
theorem issue_command (y : System) (c : HostCmd) (dst : Option HostVar) {i : Instr}
    (h : decode (encode (c.instr y.host.frame.vars y.host.buz)) = .command i) :
    ∃ t r, exec i y.ttb = .next t ∧ t.rsp = some r
      ∧ y.issue c dst = if r.err then .refused .illegalCommandIssued
          else .next ({ y with ttb := t }.withVars (setDst y.host.frame.vars dst r.data.toNat)) := by
  obtain ⟨t, r, he, hr, -⟩ := exec_spec i y.ttb
  refine ⟨t, r, he, hr, ?_⟩
  unfold System.issue
  rw [step_offerCommand, acceptCommand_command _ h, he]
  obtain ⟨_ | _, d⟩ := r <;> simp [hr]

/-- A host action that is no command leaves the block alone. -/
theorem hostStep_ttb {y z : System} {draw : BitVec 16} (h : y.hostStep draw = .next z) :
    z.ttb = y.ttb ∨ ∃ c dst k, y.host.returned = none ∧ y.host.frame.code = .cmd c dst :: k
      ∧ (y.withCode k).issue c dst = .next z := by
  unfold System.hostStep at h
  split at h
  · cases h; exact .inl rfl
  · rename_i hn
    split at h
    case h_4 c dst k hc => exact .inr ⟨c, dst, k, hn, hc, h⟩
    case h_12 c k hc =>
      dsimp only at h
      split at h
      · cases h; exact .inl rfl
      · cases h
    all_goals cases h; simp

@[simp] theorem run_nil (y : System) : System.run [] y = .next y := rfl

@[simp] theorem step_hw (y : System) (e : HwEvent) : y.step (.hw e) = .next { y with ttb := hardwareStep e y.ttb } := rfl

@[simp] theorem step_host (y : System) (d : BitVec 16) : y.step (.host d) = y.hostStep d := rfl

theorem run_cons {e : SysEvent} {es : List SysEvent} {y x : System} :
    System.run (e :: es) y = .next x ↔ ∃ z, y.step e = .next z ∧ z.run es = .next x := by
  simp only [System.run]
  cases h : y.step e with
  | next z => exact ⟨fun hz => ⟨z, rfl, hz⟩, fun ⟨w, hw, hr⟩ => by cases hw; exact hr⟩
  | fault f => cases f
  | refused r => exact ⟨fun hr => (by cases hr), fun ⟨w, hw, _⟩ => by cases hw⟩

end Sys2Proof.Machine
end

