-- ==== Sys2Proof/Laws/PerInstr.lean ====
section
/-! SUPPORT. One lemma per command about its encoding as syntax: the three fields of its word are its opcode and its
operands (spec/30_encoding.md R61, R63, R65). -/

namespace Sys2Proof.Laws.EncodedFields

/-- The word of `i` holds its opcode in `op`, its operands in `a` and `b`. -/
def Statement (i : Instr) : Prop :=
  cmdOp (encode i) = i.opcode ∧ cmdA (encode i) = i.operandA ∧ cmdB (encode i) = i.operandB

theorem rdreg (n : BitVec 4) : Statement (.rdreg n) := by simp [Statement, encode]
theorem tbArm : Statement .tbArm := by simp [Statement, encode]
theorem tbIrqOn : Statement .tbIrqOn := by simp [Statement, encode]
theorem tbIrqOff : Statement .tbIrqOff := by simp [Statement, encode]
theorem gieOn : Statement .gieOn := by simp [Statement, encode]
theorem gieOff : Statement .gieOff := by simp [Statement, encode]
theorem millis : Statement .millis := by simp [Statement, encode]
theorem elapsed (start : BitVec 32) : Statement (.elapsed start) := by simp [Statement, encode]
theorem tcmp (start : BitVec 32) (dur : BitVec 32) : Statement (.tcmp start dur) := by simp [Statement, encode]
theorem adcSelect (ch : BitVec 8) : Statement (.adcSelect ch) := by simp [Statement, encode]
theorem adcJustR : Statement .adcJustR := by simp [Statement, encode]
theorem adcJustL : Statement .adcJustL := by simp [Statement, encode]
theorem adcGo : Statement .adcGo := by simp [Statement, encode]
theorem adcPoll : Statement .adcPoll := by simp [Statement, encode]
theorem adcResult : Statement .adcResult := by simp [Statement, encode]
theorem adcResultHi : Statement .adcResultHi := by simp [Statement, encode]
theorem adcOff : Statement .adcOff := by simp [Statement, encode]
theorem pwmStart (freq : BitVec 16) : Statement (.pwmStart freq) := by simp [Statement, encode]
theorem pwmEnable : Statement .pwmEnable := by simp [Statement, encode]
theorem pwmDisable : Statement .pwmDisable := by simp [Statement, encode]
theorem pwmStop : Statement .pwmStop := by simp [Statement, encode]

end Sys2Proof.Laws.EncodedFields
end

