-- ==== Sys2Proof/Tests/Slice0.lean ====
section
/-! SUPPORT. Tests of the model on fixed values, and a witness for the hypotheses of every statement. The expected
values are those of spec/95_test_vectors.md (its rows are named in the comments); the words of the decode tests are
written out from the table of spec/30_encoding.md R65. -/

namespace Sys2Proof.Tests

open Sys2Proof Sys2Proof.Machine

/-! ## Helpers -/

/-- `CFG_A` of spec/95_test_vectors.md, with delay parameters of our own. -/
def cfgA : Config := { tickReload := 0xFA, fOsc := 48000000, pwmPrescale := 16, delayMsInnerUs := 990, delayTickTol := 1 }

/-- The state of 95_test_vectors 2.6. -/
def blockA : State where
  ticks := 2
  tmr := 0xFA
  tbctl := 0b1011
  treload := 0xFA
  adctl := 0x95
  adsamp := 0x2A5
  pwmctl := 0b11
  pwmper := 18
  pwmduty := 9
  pwmtmr := 7
  rsp := none
  events := []
  cfg := cfgA

/-- The next state of an outcome. -/
def nextState : StepOutcome → Option State
  | .next t => some t
  | .fault _ => none
  | .refused _ => none

/-- The state after `n` steps. -/
def afterSteps (n : Nat) (s : State) : Option State := nextState (Sys2Proof.core.run n s)

/-- The answer of one command on a state: error flag and data. -/
def answer (i : Instr) (s : State) : Option (Bool × Nat) :=
  (nextState (exec i s)).bind fun t => t.rsp.map fun r => (r.err, r.data.toNat)

/-- The state after one command, its answer left out. -/
def effectOf (i : Instr) (s : State) : Option State :=
  (nextState (exec i s)).map fun t => { t with rsp := none }

/-- The state after one agent's step is offered. -/
def agentStep (e : HwEvent) (s : State) : Option State := afterSteps 1 { s with events := [.hw e] }

/-! ## The decoder, on words written out from R65 -/

theorem test_decode_rdreg : decode 0x010000000300000000 = .command (.rdreg 3) := by decide
theorem test_decode_tbArm : decode 0x100000000000000000 = .command .tbArm := by decide
theorem test_decode_tbIrqOn : decode 0x110000000000000000 = .command .tbIrqOn := by decide
theorem test_decode_tbIrqOff : decode 0x120000000000000000 = .command .tbIrqOff := by decide
theorem test_decode_gieOn : decode 0x130000000000000000 = .command .gieOn := by decide
theorem test_decode_gieOff : decode 0x140000000000000000 = .command .gieOff := by decide
theorem test_decode_millis : decode 0x150000000000000000 = .command .millis := by decide
theorem test_decode_elapsed : decode 0x16FFFFFFF000000000 = .command (.elapsed 0xFFFFFFF0) := by decide
theorem test_decode_tcmp : decode 0x17FFFFFFF000000021 = .command (.tcmp 0xFFFFFFF0 33) := by decide
theorem test_decode_adcSelect : decode 0x200000009700000000 = .command (.adcSelect 0x97) := by decide
theorem test_decode_adcJustR : decode 0x210000000000000000 = .command .adcJustR := by decide
theorem test_decode_adcJustL : decode 0x220000000000000000 = .command .adcJustL := by decide
theorem test_decode_adcGo : decode 0x230000000000000000 = .command .adcGo := by decide
theorem test_decode_adcPoll : decode 0x240000000000000000 = .command .adcPoll := by decide
theorem test_decode_adcResult : decode 0x250000000000000000 = .command .adcResult := by decide
theorem test_decode_adcResultHi : decode 0x260000000000000000 = .command .adcResultHi := by decide
theorem test_decode_adcOff : decode 0x270000000000000000 = .command .adcOff := by decide
theorem test_decode_pwmStart : decode 0x300000947000000000 = .command (.pwmStart 38000) := by decide
theorem test_decode_pwmEnable : decode 0x310000000000000000 = .command .pwmEnable := by decide
theorem test_decode_pwmDisable : decode 0x320000000000000000 = .command .pwmDisable := by decide
theorem test_decode_pwmStop : decode 0x330000000000000000 = .command .pwmStop := by decide

/-- 95_test_vectors 2.1: the illegal words. -/
theorem test_decode_illegal :
    decode 0 = .illegal .unassignedOpcode ∧ decode 0x020000000000000000 = .illegal .unassignedOpcode
      ∧ decode 0x180000000000000000 = .illegal .unassignedOpcode ∧ decode 0x280000000000000000 = .illegal .unassignedOpcode
      ∧ decode 0x340000000000000000 = .illegal .unassignedOpcode ∧ decode 0x150000000100000000 = .illegal .reservedBits
      ∧ decode 0x150000000000000001 = .illegal .reservedBits ∧ decode 0x010000000B00000000 = .illegal .reservedRegister
      ∧ decode 0x010000001000000000 = .illegal .reservedBits ∧ decode 0x160000000500000001 = .illegal .reservedBits
      ∧ decode 0x200000010000000000 = .illegal .reservedBits ∧ decode 0x300001000000000000 = .illegal .reservedBits := by
  decide

/-- The numbering of spec/opcode_table.json: bit 71 is the top bit of `op`. -/
theorem test_decodeTableWord : decodeTableWord 72 0x200000001400000000 = some (.adcSelect 0x14) := by decide

/-! ## The checks: each refuses an ill-formed term -/

theorem test_wellFormed_refuses_register_b : (Instr.rdreg 0xB).wellFormed = false := by decide
theorem test_wellFormed_accepts_register_a : (Instr.rdreg 0xA).wellFormed = true := by decide
theorem test_config_accepts_cfgA : cfgA.WellFormed := by decide
theorem test_config_refuses_width_zero : ¬ ({ cfgA with tmrW := 0, tickReload := 0 } : Config).WellFormed := by decide
theorem test_config_refuses_wide_reload : ¬ ({ cfgA with tickReload := 256 } : Config).WellFormed := by decide
theorem test_config_refuses_prescale_zero : ¬ ({ cfgA with pwmPrescale := 0 } : Config).WellFormed := by decide
theorem test_config_refuses_clock_zero : ¬ ({ cfgA with fOsc := 0 } : Config).WellFormed := by decide
theorem test_config_refuses_slow_clock : ¬ ({ cfgA with fOsc := 4194239 } : Config).WellFormed := by decide
theorem test_config_refuses_mask_of_fmt : ¬ ({ cfgA with adcChsMask := 0xFC } : Config).WellFormed := by decide
theorem test_config_refuses_long_delay : ¬ ({ cfgA with delayMsInnerUs := 1000 } : Config).WellFormed := by decide

/-! ## Commands: 95_test_vectors 2.2 to 2.6 -/

theorem test_tbArm : effectOf .tbArm { blockA with tmr := 0x42, tbctl := 0b1111, ticks := 9 }
    = some { blockA with tmr := 0xFA, tbctl := 0b1011, ticks := 9 } := by decide
theorem test_tbIrqOn : effectOf .tbIrqOn { blockA with tbctl := 0b1101 } = some { blockA with tbctl := 0b1111 } := by decide
theorem test_tbIrqOff : effectOf .tbIrqOff blockA = some { blockA with tbctl := 0b1001 } := by decide
theorem test_gieOn : effectOf .gieOn { blockA with tbctl := 0b0011 } = some blockA := by decide
theorem test_gieOff : effectOf .gieOff blockA = some { blockA with tbctl := 0b0011 } := by decide
theorem test_millis : answer .millis { blockA with ticks := 0x10 } = some (false, 0x10) := by decide
theorem test_elapsed_wraps : answer (.elapsed 0xFFFFFFF0) { blockA with ticks := 0x10 } = some (false, 0x20) := by decide
theorem test_elapsed_future : answer (.elapsed 0x11) { blockA with ticks := 0x10 } = some (false, 0xFFFFFFFF) := by decide
theorem test_tcmp_reached : answer (.tcmp 0xFFFFFFF0 32) { blockA with ticks := 0x10 } = some (false, 1) := by decide
theorem test_tcmp_short : answer (.tcmp 0xFFFFFFF0 33) { blockA with ticks := 0x10 } = some (false, 0) := by decide
theorem test_adcSelect_masks :
    effectOf (.adcSelect 0xFF) { blockA with adctl := 0x81 } = some { blockA with adctl := 0xFD } := by decide
theorem test_adcSelect_keeps_go :
    effectOf (.adcSelect 0x00) { blockA with adctl := 0x7F } = some { blockA with adctl := 0x03 } := by decide
theorem test_adcJustR : effectOf .adcJustR blockA = some { blockA with adctl := 0x15 } := by decide
theorem test_adcJustL : effectOf .adcJustL { blockA with adctl := 0x15 } = some blockA := by decide
theorem test_adcGo_off : effectOf .adcGo { blockA with adctl := 0x14 } = some { blockA with adctl := 0x16 } := by decide
theorem test_adcPoll : answer .adcPoll { blockA with adctl := 0x17 } = some (false, 1) := by decide
theorem test_adcResult_left : answer .adcResult blockA = some (false, 0xA940) := by decide
theorem test_adcResult_right : answer .adcResult { blockA with adctl := 0x15 } = some (false, 0x2A5) := by decide
theorem test_adcResultHi_left : answer .adcResultHi { blockA with adsamp := 0x003 } = some (false, 0) := by decide
theorem test_adcResultHi_right : answer .adcResultHi { blockA with adctl := 0x15 } = some (false, 2) := by decide
theorem test_adcOff_freezes :
    effectOf .adcOff { blockA with adctl := 0x17 } = some { blockA with adctl := 0x16 } := by decide
theorem test_pwmStart_unclamped : effectOf (.pwmStart 2919) { blockA with pwmctl := 0 }
    = some { blockA with pwmper := 255, pwmduty := 128 } := by decide
theorem test_pwmStart_odd_period : effectOf (.pwmStart 40000) { blockA with pwmctl := 0 }
    = some { blockA with pwmper := 17, pwmduty := 9 } := by decide
theorem test_pwmPeriod_edges : pwmPeriod cfgA 2918 = 255 ∧ pwmQuotient cfgA 2918 = 257 ∧ pwmQuotient cfgA 2919 = 256
    ∧ pwmPeriod cfgA 3907 = 190 ∧ pwmPeriod cfgA 65535 = 10 := by decide
theorem test_pwmDuty : [0, 1, 2, 3, 254, 255].map pwmDutyOf = [0, 1, 1, 2, 127, 128] := by decide
theorem test_pwmEnable : effectOf .pwmEnable { blockA with pwmctl := 0b01 } = some blockA := by decide
theorem test_pwmDisable : effectOf .pwmDisable blockA = some { blockA with pwmctl := 0b01 } := by decide
theorem test_pwmStop : effectOf .pwmStop blockA = some { blockA with pwmctl := 0b00 } := by decide
theorem test_rdreg_low : ([0, 1, 2, 3, 4, 5].map fun n => answer (.rdreg n) blockA)
    = [some (false, 2), some (false, 0xFA), some (false, 0xB), some (false, 0xFA), some (false, 0x95),
       some (false, 0xA940)] := by decide
theorem test_rdreg_high : ([6, 7, 8, 9, 10, 11].map fun n => answer (.rdreg n) blockA)
    = [some (false, 3), some (false, 0x12), some (false, 9), some (false, 7), some (false, 1), some (true, 0)] := by decide

/-! ## The agents: 95_test_vectors 2.3 to 2.5 -/

theorem test_tmrCount_counts :
    agentStep .tmrCount { blockA with tmr := 0xFE } = some { blockA with tmr := 0xFF } := by decide
theorem test_tmrCount_masked_overflow : agentStep .tmrCount { blockA with tmr := 0xFF, tbctl := 0b0001 }
    = some { blockA with tmr := 0, tbctl := 0b0101 } := by decide
theorem test_tickIsr : agentStep .tickIsr { blockA with ticks := 0xFFFFFFFF, tmr := 3, tbctl := 0b1111 }
    = some { blockA with ticks := 0 } := by decide
theorem test_tickIsr_masked :
    agentStep .tickIsr { blockA with tbctl := 0b0111 } = some { blockA with tbctl := 0b0111 } := by decide
theorem test_adcDone : agentStep (.adcDone 0x155) { blockA with adctl := 0x17 }
    = some { blockA with adctl := 0x15, adsamp := 0x155 } := by decide
theorem test_adcDone_off : agentStep (.adcDone 0x155) { blockA with adctl := 0x16 }
    = some { blockA with adctl := 0x16 } := by decide
theorem test_pwmCount_lowered_period : agentStep .pwmCount { blockA with pwmper := 10, pwmtmr := 100 }
    = some { blockA with pwmper := 10, pwmtmr := 0 } := by decide
theorem test_pwmCount_counts : agentStep .pwmCount blockA = some { blockA with pwmtmr := 8 } := by decide

/-- What `RESET` leaves of `blockA` (10_state R29), with draws wider than their fields. -/
theorem test_reset : agentStep (.reset ⟨0x137, 0xFF, 0x155, 195, 90⟩) blockA
    = some { blockA with
        ticks := 0, tmr := 0x37, tbctl := 0, adctl := 0x7C, adsamp := 0x155, pwmctl := 0, pwmper := 195, pwmduty := 90,
        pwmtmr := 0 } := by decide

/-- The first step from `State.reset` with a word placed runs that word: `GIE_ON`. -/
theorem test_first_instruction :
    (afterSteps 1 (State.reset.withFetchWord 72 0x130000000000000000)).map (fun t => (t.tbctl, t.rsp))
      = some (0b1000, some ⟨false, 0⟩) := by decide

/-! ## Host routines: 95_test_vectors 2.7 -/

theorem test_rangeMap_source : rangeMap 0 0 1023 0 255 = some 0 ∧ rangeMap 1023 0 1023 0 255 = some 255 := by decide
theorem test_rangeMap_truncates : rangeMap (-100) 0 1023 0 255 = some (-24) ∧ rangeMap 7 0 10 0 (-3) = some (-2)
    ∧ rangeMap 2000 0 1023 0 255 = some 498 ∧ rangeMap 0 1023 0 0 255 = some 255 := by decide
theorem test_rangeMap_refuses : rangeMap 32767 0 1 0 2 = none ∧ rangeMap 7 5 5 0 10 = none := by decide
theorem test_toneHalf : [1, 7, 8, 440, 50000, 50001, 55556, 62501].map toneHalf
    = [499992, 71420, 62492, 1128, 2, 1, 0, -1] := by decide

/-! ## Witnesses: for each statement, states and operands that meet its hypotheses, clause by clause -/

/-- `blockA` with some events offered. -/
def offered (es : List Event) : State := { blockA with events := es }

/-- `blockA` offered one word, given by its three fields. -/
def wordOffered (op : BitVec 8) (a b : BitVec 32) : State := offered [.cmd (mkCommand op a b)]

/-- What the next step answers: error flag and data. -/
def stepAnswer (s : State) : Option (Bool × Nat) :=
  (nextState (step s)).bind fun t => t.rsp.map fun r => (r.err, r.data.toNat)

/-- A configuration whose tick is due after one count. -/
def cfgOne : Config :=
  { tmrW := 1, tickReload := 1, fOsc := 262140, pwmPrescale := 1, delayMsInnerUs := 0, delayTickTol := 0 }

theorem witness_DecodeOfEncodeIsTheCommand :
    (Instr.rdreg 0xA).wellFormed = true ∧ (Instr.tcmp 0xFFFFFFFF 0xFFFFFFFF).wellFormed = true
      ∧ (Instr.adcSelect 0xFF).wellFormed = true ∧ (Instr.pwmStart 0xFFFF).wellFormed = true := by decide

theorem witness_LegalWordIsItsCommandsEncoding :
    decode 0x010000000A00000000 = .command (.rdreg 0xA) ∧ decode 0x300000FFFF00000000 = .command (.pwmStart 0xFFFF)
      ∧ decode 0x17FFFFFFFFFFFFFFFF = .command (.tcmp 0xFFFFFFFF 0xFFFFFFFF) := by decide

theorem witness_IllegalWordsAreExactlyThoseListed :
    decode 0x010000000B00000000 = .illegal .reservedRegister
      ∧ (wordOffered 0x01 0xB 0).events = .cmd 0x010000000B00000000 :: [] := by decide

theorem witness_StepRunsTheDecodedCommand :
    (wordOffered 0x10 0 0).events = .cmd 0x100000000000000000 :: [] ∧ decode 0x100000000000000000 = .command .tbArm
      ∧ decodeTableWord 72 0x330000000000000000 = some .pwmStop := by decide

theorem witness_IllegalCommandLeavesNoTrace :
    decode 0xFF0000000000000000 = .illegal .unassignedOpcode
      ∧ (offered [.cmd 0xFF0000000000000000, .hw .tmrCount]).events = .cmd 0xFF0000000000000000 :: [.hw .tmrCount]
      ∧ decode (encode ((HostCmd.rdreg (.lit 0xB)).instr [] false)) = .illegal .reservedRegister := by decide

theorem witness_EveryCommandIsAnsweredInItsStep :
    stepAnswer (wordOffered 0x15 0 0) = some (false, 2) ∧ stepAnswer (wordOffered 0x15 1 0) = some (true, 0)
      ∧ stepAnswer (offered [.hw .tmrCount]) = none ∧ stepAnswer (offered []) = none := by decide

theorem witness_ReadingCommandsHaveNoSideEffect :
    (∃ t, exec (.rdreg 0xA) blockA = .next t) ∧ (∃ t, exec (.rdreg 0xB) blockA = .next t)
      ∧ (∃ t, exec .millis blockA = .next t) ∧ (∃ t, exec (.elapsed 0) blockA = .next t)
      ∧ (∃ t, exec (.tcmp 0 2) blockA = .next t) ∧ (∃ t, exec .adcPoll blockA = .next t)
      ∧ (∃ t, exec .adcResult blockA = .next t) ∧ (∃ t, exec .adcResultHi blockA = .next t) :=
  ⟨⟨_, rfl⟩, ⟨_, rfl⟩, ⟨_, rfl⟩, ⟨_, rfl⟩, ⟨_, rfl⟩, ⟨_, rfl⟩, ⟨_, rfl⟩, ⟨_, rfl⟩⟩

/-- The words of a plain command: offered, both the legal one and one with a reserved bit set. -/
theorem witness_TbArmStartsTheTimer :
    (∃ t, exec .tbIrqOff blockA = .next t) ∧ blockA.ton = true ∧
    (wordOffered 0x10 0 0).events = .cmd (mkCommand 0x10 0 0) :: [] ∧ stepAnswer (wordOffered 0x10 0 0) = some (false, 0)
      ∧ (wordOffered 0x10 0 1).events = .cmd (mkCommand 0x10 0 1) :: [] ∧ stepAnswer (wordOffered 0x10 0 1) = some (true, 0) :=
  ⟨⟨_, rfl⟩, by decide⟩

theorem witness_EnableCommandsWriteTheirBit :
    (∃ t, exec .tbIrqOn { blockA with tbctl := 0b1101 } = .next t)
      ∧ (∃ t, exec .gieOn { blockA with tbctl := 0b0111 } = .next t)
      ∧ ([0x11, 0x12, 0x13, 0x14].map fun op => stepAnswer (wordOffered op 0 0)) = List.replicate 4 (some (false, 0))
      ∧ ([0x11, 0x12, 0x13, 0x14].map fun op => stepAnswer (wordOffered op 0x80000000 0))
        = List.replicate 4 (some (true, 0)) :=
  ⟨⟨_, rfl⟩, ⟨_, rfl⟩, by decide, by decide⟩

theorem witness_MillisReadsTheCounter :
    stepAnswer (wordOffered 0x15 0 0) = some (false, 2) ∧ stepAnswer (wordOffered 0x15 0 1) = some (true, 0) := by decide

theorem witness_ElapsedSubtractsModuloTheWrap :
    stepAnswer (wordOffered 0x16 3 0) = some (false, 0xFFFFFFFF) ∧ stepAnswer (wordOffered 0x16 3 1) = some (true, 0) := by
  decide

theorem witness_TcmpComparesTheElapsedTime :
    stepAnswer (wordOffered 0x17 0 2) = some (false, 1) ∧ stepAnswer (wordOffered 0x17 0 3) = some (false, 0) := by decide

theorem witness_AdcSelectRewritesOnlyTheChannel :
    stepAnswer (wordOffered 0x20 0xFF 0) = some (false, 0) ∧ stepAnswer (wordOffered 0x20 0x100 0) = some (true, 0)
      ∧ stepAnswer (wordOffered 0x20 0 1) = some (true, 0) := by decide

theorem witness_AdcJustifyWritesTheAlignment :
    (∃ t, exec .adcJustR blockA = .next t) ∧ (∃ t, exec .adcJustL { blockA with adctl := 0x15 } = .next t)
      ∧ stepAnswer (wordOffered 0x21 0 0) = some (false, 0) ∧ stepAnswer (wordOffered 0x22 0 0) = some (false, 0)
      ∧ stepAnswer (wordOffered 0x22 1 0) = some (true, 0) :=
  ⟨⟨_, rfl⟩, ⟨_, rfl⟩, by decide, by decide, by decide⟩

theorem witness_AdcGoAndOffWriteTheirBit :
    (∃ t, exec .adcGo { blockA with adctl := 0x14 } = .next t) ∧ (∃ t, exec .adcOff { blockA with adctl := 0x17 } = .next t)
      ∧ stepAnswer (wordOffered 0x23 0 0) = some (false, 0) ∧ stepAnswer (wordOffered 0x27 0 1) = some (true, 0) :=
  ⟨⟨_, rfl⟩, ⟨_, rfl⟩, by decide, by decide⟩

theorem witness_AdcPollReadsTheTriggerBit :
    stepAnswer (wordOffered 0x24 0 0) = some (false, 0) ∧ stepAnswer (wordOffered 0x24 1 0) = some (true, 0) := by decide

theorem witness_AdcResultsReadTheAlignedSample :
    ({ blockA with adctl := 0x7F } : State).adctl &&& 0x80#8 = 0 ∧ ({ blockA with adctl := 0x80 } : State).adctl &&& 0x80#8 ≠ 0
      ∧ stepAnswer (wordOffered 0x25 0 0) = some (false, 0xA940) ∧ stepAnswer (wordOffered 0x26 1 0) = some (true, 0) := by
  decide

theorem witness_PwmStartLoadsPeriodAndDuty :
    blockA.cfg.WellFormed ∧ (1 : BitVec 16) ≠ 0 ∧ (0xFFFF : BitVec 16) ≠ 0
      ∧ stepAnswer (wordOffered 0x30 0xFFFF 0) = some (false, 0) ∧ stepAnswer (wordOffered 0x30 0x10000 0) = some (true, 0) := by
  decide

theorem witness_PwmGatesWriteTheirBits :
    (∃ t, exec .pwmDisable blockA = .next t) ∧ (∃ t, exec .pwmStop blockA = .next t)
      ∧ stepAnswer (wordOffered 0x31 0 0) = some (false, 0) ∧ stepAnswer (wordOffered 0x33 0 1) = some (true, 0) :=
  ⟨⟨_, rfl⟩, ⟨_, rfl⟩, by decide, by decide⟩

theorem witness_RdregReadsEachRegister :
    blockA.tmr < 2 ^ 32 ∧ blockA.treload < 2 ^ 32 ∧ 0xB ≤ (0xB : BitVec 4).toNat ∧ 0xB ≤ (0xF : BitVec 4).toNat
      ∧ stepAnswer (wordOffered 0x01 0xA 0) = some (false, 1) ∧ stepAnswer (wordOffered 0x01 0xB 0) = some (true, 0)
      ∧ stepAnswer (wordOffered 0x01 0x10 0) = some (true, 0) := by decide

/-- Counting off, counting, and the overflow: the three cases of `TMR_COUNT`. -/
theorem witness_TmrCountCountsAndOverflows :
    (offered [.hw .tmrCount]).events = .hw .tmrCount :: [] ∧ blockA.tbctl &&& 0b0001#4 ≠ 0
      ∧ ({ blockA with tbctl := 0b1110 } : State).tbctl &&& 0b0001#4 = 0
      ∧ ({ blockA with tmr := 255 } : State).tmr = 2 ^ blockA.cfg.tmrW - 1 ∧ blockA.tmr ≠ 2 ^ blockA.cfg.tmrW - 1 := by
  decide

theorem witness_TickIsrTakesThePendingTick :
    (offered [.hw .tickIsr]).events = .hw .tickIsr :: []
      ∧ ({ blockA with tbctl := 0b1110 } : State).tbctl &&& 0b1110#4 = 0b1110#4 ∧ blockA.tbctl &&& 0b1110#4 ≠ 0b1110#4 := by
  decide

theorem witness_AdcDoneStoresTheDrawnSample :
    (offered [.hw (.adcDone 0x3FF)]).events = .hw (.adcDone 0x3FF) :: []
      ∧ ({ blockA with adctl := 0x17 } : State).adctl &&& 0x03#8 = 0x03#8 ∧ blockA.adctl &&& 0x03#8 ≠ 0x03#8 := by decide

theorem witness_PwmCountCountsToThePeriod :
    (offered [.hw .pwmCount]).events = .hw .pwmCount :: [] ∧ blockA.pwmctl &&& 0b01#2 ≠ 0
      ∧ ({ blockA with pwmctl := 0b10 } : State).pwmctl &&& 0b01#2 = 0 ∧ blockA.pwmtmr.toNat < blockA.pwmper.toNat
      ∧ ({ blockA with pwmtmr := 18 } : State).pwmtmr.toNat ≥ blockA.pwmper.toNat ∧ (∃ t, exec .pwmStop blockA = .next t) :=
  ⟨by decide, by decide, by decide, by decide, by decide, _, rfl⟩

theorem witness_ResetLeavesTheTabledValues :
    (offered [.hw (.reset ⟨256, 0xFF, 0, 0, 0⟩)]).events = .hw (.reset ⟨256, 0xFF, 0, 0, 0⟩) :: [] := by decide

theorem witness_PowerOnRefusesIllFormedConfigurations :
    ¬ ({ cfgA with tickReload := 256 } : Config).WellFormed ∧ ({ cfgA with tickReload := 255 } : Config).WellFormed
      ∧ cfgOne.WellFormed ∧ ¬ ({ cfgOne with fOsc := 262139 } : Config).WellFormed := by decide

theorem blockA_inv : blockA.Inv := ⟨by decide, by decide, by decide, by decide⟩

theorem witness_EveryStepKeepsTheInvariant :
    (offered [.hw .tmrCount]).Inv ∧ (∃ t, step (offered [.hw .tmrCount]) = .next t)
      ∧ (wordOffered 0x20 0xFF 0).Inv ∧ (∃ t, step (wordOffered 0x20 0xFF 0) = .next t) :=
  ⟨blockA_inv, ⟨_, rfl⟩, blockA_inv, ⟨_, rfl⟩⟩

/-- A change of each register that the statement is about. -/
theorem witness_EachRegisterHasOnlyItsWriters :
    (∃ t, step { offered [.hw .tickIsr] with tbctl := 0b1110 } = .next t ∧ t.ticks ≠ blockA.ticks)
      ∧ (∃ t, step (offered [.hw .tmrCount]) = .next t ∧ t.tmr ≠ blockA.tmr)
      ∧ (∃ t, step { offered [.hw (.reset ⟨0, 0, 0, 0, 0⟩)] with treload := 0 } = .next t ∧ t.treload ≠ 0)
      ∧ (∃ t, step { offered [.hw (.adcDone 0)] with adctl := 0x03 } = .next t ∧ t.adsamp ≠ blockA.adsamp)
      ∧ (∃ t, step (wordOffered 0x30 1 0) = .next t ∧ t.pwmper ≠ blockA.pwmper ∧ t.pwmduty ≠ blockA.pwmduty)
      ∧ (∃ t, step (offered [.hw .pwmCount]) = .next t ∧ t.pwmtmr ≠ blockA.pwmtmr) :=
  ⟨⟨_, rfl, by decide⟩, ⟨_, rfl, by decide⟩, ⟨_, rfl, by decide⟩, ⟨_, rfl, by decide⟩, ⟨_, rfl, by decide, by decide⟩,
    ⟨_, rfl, by decide⟩⟩

/-- A change of each control bit, in each direction. -/
theorem witness_ControlBitsChangeOnlyAsTabled :
    blockA.cfg.WellFormed
      ∧ (∃ t, step { wordOffered 0x10 0 0 with tbctl := 0b0100 } = .next t
          ∧ t.ton = true ∧ t.tie = true ∧ t.tif = false)
      ∧ (∃ t, step { offered [.hw (.reset ⟨0, 0, 0, 0, 0⟩)] with tbctl := 0xF, adctl := 0xFF } = .next t
          ∧ t.ton = false ∧ t.tie = false ∧ t.tif = false ∧ t.gie = false ∧ t.adOn = false ∧ t.adGo = false
          ∧ t.adFmt = false ∧ t.pton = false ∧ t.ocen = false ∧ t.adChs ≠ 0x7C)
      ∧ (∃ t, step { wordOffered 0x11 0 0 with tbctl := 0 } = .next t ∧ t.tie = true)
      ∧ (∃ t, step (wordOffered 0x12 0 0) = .next t ∧ t.tie = false)
      ∧ (∃ t, step { offered [.hw .tmrCount] with tmr := 255 } = .next t ∧ t.tif = true)
      ∧ (∃ t, step { offered [.hw .tickIsr] with tbctl := 0xF } = .next t ∧ t.tif = false)
      ∧ (∃ t, step { wordOffered 0x13 0 0 with tbctl := 0 } = .next t ∧ t.gie = true)
      ∧ (∃ t, step (wordOffered 0x14 0 0) = .next t ∧ t.gie = false)
      ∧ (∃ t, step { wordOffered 0x20 0xFF 0 with adctl := 0 } = .next t ∧ t.adOn = true ∧ t.adChs ≠ 0)
      ∧ (∃ t, step (wordOffered 0x27 0 0) = .next t ∧ t.adOn = false)
      ∧ (∃ t, step (wordOffered 0x23 0 0) = .next t ∧ t.adGo = true)
      ∧ (∃ t, step { offered [.hw (.adcDone 1)] with adctl := 0x03 } = .next t ∧ t.adGo = false)
      ∧ (∃ t, step { wordOffered 0x22 0 0 with adctl := 0 } = .next t ∧ t.adFmt = true)
      ∧ (∃ t, step (wordOffered 0x21 0 0) = .next t ∧ t.adFmt = false)
      ∧ (∃ t, step { wordOffered 0x30 1 0 with pwmctl := 0 } = .next t ∧ t.pton = true ∧ t.ocen = true)
      ∧ (∃ t, step (wordOffered 0x33 0 0) = .next t ∧ t.pton = false ∧ t.ocen = false)
      ∧ (∃ t, step { wordOffered 0x31 0 0 with pwmctl := 0 } = .next t ∧ t.ocen = true)
      ∧ (∃ t, step (wordOffered 0x32 0 0) = .next t ∧ t.ocen = false) := by
  refine ⟨by decide, ⟨_, rfl, ?_⟩, ⟨_, rfl, ?_⟩, ⟨_, rfl, ?_⟩, ⟨_, rfl, ?_⟩, ⟨_, rfl, ?_⟩, ⟨_, rfl, ?_⟩, ⟨_, rfl, ?_⟩,
    ⟨_, rfl, ?_⟩, ⟨_, rfl, ?_⟩, ⟨_, rfl, ?_⟩, ⟨_, rfl, ?_⟩, ⟨_, rfl, ?_⟩, ⟨_, rfl, ?_⟩, ⟨_, rfl, ?_⟩, ⟨_, rfl, ?_⟩,
    ⟨_, rfl, ?_⟩, ⟨_, rfl, ?_⟩, ⟨_, rfl, ?_⟩⟩ <;> decide

/-- Two states that agree on each unit in turn and differ in the others. -/
theorem witness_UnitsDoNotInterfere :
    let es := [.hw .tmrCount, .cmd 0x230000000000000000, .hw .pwmCount]
    let s := offered es
    let s₁ := { s with adctl := 0, pwmtmr := 0 }
    let s₂ := { s with ticks := 9, pwmtmr := 0 }
    let s₃ := { s with ticks := 9, adctl := 0 }
    s.events = s₁.events ∧ s.cfg = s₁.cfg ∧ SameTimebase s s₁ ∧ SameSampler s s₂ ∧ SameGenerator s s₃
      ∧ (∃ t, Reaches 3 s t) ∧ (∃ t, Reaches 3 s₁ t) ∧ (∃ t, Reaches 3 s₂ t) ∧ (∃ t, Reaches 3 s₃ t) :=
  ⟨rfl, rfl, ⟨rfl, rfl, rfl, rfl⟩, ⟨rfl, rfl⟩, ⟨rfl, rfl, rfl, rfl⟩, ⟨_, rfl⟩, ⟨_, rfl⟩, ⟨_, rfl⟩, ⟨_, rfl⟩⟩

/-- A run that counts two ticks, the second across the wrap. -/
theorem witness_CounterAdvancesByHandlerSteps :
    let s : State := { offered [.hw .tickIsr, .hw .tmrCount, .hw .tickIsr] with
      ticks := 0xFFFFFFFE, tbctl := 0b1111, cfg := cfgOne, treload := 1 }
    (∃ t, Reaches 3 s t) ∧ s.noReset 3 ∧ countTaken HwEvent.isTickIsr 3 s = 2 :=
  ⟨⟨_, rfl⟩, by unfold State.noReset; decide, by decide⟩

/-- A `noCommand` hypothesis where no offered event is a word at all. -/
theorem noCommand_of_hw {p : Instr → Bool} {n : Nat} {s : State} (as : List HwEvent)
    (h : s.events.take n = as.map .hw) : s.noCommand p n := by
  intro w i hw _
  rw [h] at hw
  simp at hw

theorem witness_MaskedBracketHoldsTheCounter :
    let s : State := { offered [.hw .tickIsr, .hw .tmrCount] with tbctl := 0b1101 }
    let s' : State := { offered [.hw .tickIsr, .hw .tmrCount] with tbctl := 0b0111 }
    (∃ t, Reaches 2 s t) ∧ s.noReset 2 ∧ s.tie = false ∧ s.noCommand (fun i => i == .tbIrqOn || i == .tbArm) 2
      ∧ (∃ t, Reaches 2 s' t) ∧ s'.noReset 2 ∧ s'.gie = false ∧ s'.noCommand (fun i => i == .gieOn) 2 :=
  ⟨⟨_, rfl⟩, by unfold State.noReset; decide, by decide, noCommand_of_hw [.tickIsr, .tmrCount] rfl,
    ⟨_, rfl⟩, by unfold State.noReset; decide, by decide, noCommand_of_hw [.tickIsr, .tmrCount] rfl⟩

/-- From `blockA` the distance is 6: no count, one short of it, and all of it. -/
theorem witness_TickPeriodIsItsReloadDistance :
    blockA.Inv ∧ blockA.ton = true ∧ blockA.tif = false ∧ blockA.tmr = blockA.treload
      ∧ 2 ^ blockA.cfg.tmrW - blockA.cfg.tickReload = 6
      ∧ ∀ k ∈ [0, 5, 6], (offered (List.replicate k (.hw .tmrCount))).events = List.replicate k (.hw .tmrCount) ++ [] :=
  ⟨blockA_inv, by decide, by decide, by decide, by decide, by decide⟩

/-- The handler at once, and after a second overflow. -/
theorem witness_LateHandlerCountsOneTick :
    blockA.Inv ∧ blockA.ton = true ∧ blockA.tie = true ∧ blockA.gie = true ∧ blockA.tif = false
      ∧ blockA.tmr = blockA.treload
      ∧ ∀ L ∈ [0, 256], (offered (List.replicate (6 + L) (.hw .tmrCount) ++ [.hw .tickIsr])).events
          = List.replicate (2 ^ blockA.cfg.tmrW - blockA.cfg.tickReload + L) (.hw .tmrCount) ++ .hw .tickIsr :: [] :=
  ⟨blockA_inv, by decide, by decide, by decide, by decide, by decide, fun _ _ => rfl⟩

theorem witness_BootSequenceBoots :
    let s := offered [.hw (.reset ⟨0x37, 0, 0x155, 195, 90⟩), .cmd 0x100000000000000000, .cmd 0x130000000000000000,
      .hw .tmrCount]
    True ∧ (∃ t, Reaches 3 s t ∧ (∃ u, Reaches 1 t u) ∧ t.noReset 1
      ∧ t.noCommand (fun i => i == .tbIrqOff || i == .gieOff) 1) :=
  ⟨trivial, _, rfl, ⟨_, rfl⟩, by unfold State.noReset; decide, noCommand_of_hw [.tmrCount] rfl⟩

/-- No hardware step, and each of the four, one step more than is offered. -/
theorem witness_BlockIsQuiescentAfterReset :
    let rest : List Event := [.hw .tmrCount, .hw .tickIsr, .hw (.adcDone 5), .hw .pwmCount]
    let s := offered (.hw (.reset ⟨0x37, 0xFF, 0x155, 195, 90⟩) :: rest)
    s.cfg.WellFormed ∧ (∀ e ∈ rest.take 5, ∃ h : HwEvent, e = .hw h ∧ h.isReset = false)
      ∧ (∃ t, Reaches 1 s t) ∧ (∃ t, Reaches 6 s t) :=
  ⟨by decide, by simp [HwEvent.isReset], ⟨_, rfl⟩, ⟨_, rfl⟩⟩

/-- One count overflows and the handler follows, for ever, under `cfgOne`. -/
def tickRun : Execution where
  state n := { blockA with
    ticks := BitVec.ofNat 32 (n / 2), cfg := cfgOne, treload := 1
    tmr := if n % 2 = 0 then 1 else 0
    tbctl := if n % 2 = 0 then 0b1011 else 0b1111 }
  event n := .hw (if n % 2 = 0 then .tmrCount else .tickIsr)
  moves n := by
    rcases Nat.mod_two_eq_zero_or_one n with h | h
    · have h1 : (n + 1) % 2 = 1 := by omega
      have h2 : (n + 1) / 2 = n / 2 := by omega
      simp [h, h1, h2, takeEvent, hardwareStep, HwEvent.enabled, State.ton, HwEvent.effect, State.tmrCountStep,
        State.rspIdle, State.putTif, putBit, cfgOne, blockA]
    · have h1 : (n + 1) % 2 = 0 := by omega
      have h2 : (n + 1) / 2 = n / 2 + 1 := by omega
      simp [h, h1, h2, takeEvent, hardwareStep, HwEvent.enabled, State.tif, State.tie, State.gie, HwEvent.effect,
        State.takeTickInterrupt, State.rspIdle, State.putTif, putBit, cfgOne, blockA, BitVec.ofNat_add]

theorem witness_UnmaskedTimebaseKeepsCounting :
    tickRun.FairTimer ∧ tickRun.FairIsr ∧ (tickRun.state 0).Inv
      ∧ (∀ n, 0 ≤ n → (tickRun.state n).ton = true ∧ (tickRun.state n).tie = true ∧ (tickRun.state n).gie = true)
      ∧ (∀ n, 0 ≤ n → (tickRun.event n).isReset = false
          ∧ ∀ w, tickRun.event n = .cmd w → decode w ≠ .command .tbArm) := by
  refine ⟨fun _ m => ⟨2 * m, by omega, .tmrCount, ?_, rfl, ?_⟩, fun m _ => ⟨2 * m + 1, by omega, .tickIsr, ?_, rfl, ?_⟩,
    ⟨by decide, by decide, by decide, by decide⟩, fun n _ => ?_, fun n _ => ?_⟩
  · simp [tickRun]
  · simp [tickRun, HwEvent.enabled, State.ton]
  · simp [tickRun, Nat.add_mod]
  · simp [tickRun, HwEvent.enabled, State.tif, State.tie, State.gie, Nat.add_mod]
  · rcases Nat.mod_two_eq_zero_or_one n with h | h <;> simp [tickRun, State.ton, State.tie, State.gie, h]
  · rcases Nat.mod_two_eq_zero_or_one n with h | h <;> simp [tickRun, Event.isReset, HwEvent.isReset, h]

/-- A triggered conversion pending, and completed. -/
theorem witness_TriggeredReadDeliversTheDrawnSample :
    let s := offered [.cmd 0x230000000000000000, .hw (.adcDone 0x3FF)]
    s.cfg.WellFormed ∧ s.adGo = false ∧ s.noReset 2 ∧ (∃ t, Reaches 1 s t ∧ t.adGo = true)
      ∧ (∃ t, Reaches 2 s t ∧ t.adGo = false)
      ∧ (∀ w, Event.cmd w ∈ [Event.hw (.adcDone 0x3FF)].take 1 → decode w ≠ .command .adcGo) :=
  ⟨by decide, by decide, by unfold State.noReset; decide, ⟨_, rfl, by decide⟩, ⟨_, rfl, by decide⟩, by simp⟩

theorem witness_ConverterOffFreezesTheConversion :
    let s : State := { offered [.hw (.adcDone 5)] with adctl := 0x16 }
    s.cfg.WellFormed ∧ (∃ t, Reaches 1 s t) ∧ s.noReset 1 ∧ s.adOn = false ∧ s.adGo = true
      ∧ (∀ w ch, .cmd w ∈ s.events.take 1 → decode w ≠ .command (.adcSelect ch)) :=
  ⟨by decide, ⟨_, rfl⟩, by unfold State.noReset; decide, by decide, by decide, by simp [offered]⟩

/-- A converter that completes its one conversion at once. -/
def adcRun : Execution where
  state n := { blockA with adctl := if n = 0 then 0x17 else 0x15, adsamp := 5 }
  event _ := .hw (.adcDone 5)
  moves n := by
    rcases Nat.eq_zero_or_pos n with h | h
    · subst h; rfl
    · have h0 : n ≠ 0 := by omega
      simp only [if_neg h0, if_neg (Nat.succ_ne_zero n)]; rfl

theorem witness_FairConverterCompletes :
    adcRun.FairAdc ∧ ∀ n, 0 ≤ n → (adcRun.state n).adOn = true := by
  refine ⟨fun n₀ h => ?_, fun n _ => ?_⟩
  · have := h (n₀ + 1) (by omega)
    simp [adcRun, HwEvent.enabled, State.adGo] at this
  · rcases Nat.eq_zero_or_pos n with h | h
    · subst h; rfl
    · have h0 : n ≠ 0 := by omega
      simp [adcRun, State.adOn, h0]

theorem witness_AlignedViewKeepsItsRange :
    ({ blockA with adctl := 0x7F } : State).adFmt = false ∧ ({ blockA with adctl := 0x80 } : State).adFmt = true := by decide

/-- The ends of the operand's range and the two sides of the clamp. -/
theorem witness_PeriodClampsBelowTheLowestFrequency :
    cfgA.WellFormed ∧ cfgA.fOsc / (1028 * cfgA.pwmPrescale) = 2918 ∧ 257 ≤ cfgA.fOsc / (4 * cfgA.pwmPrescale * 2918)
      ∧ ¬ 257 ≤ cfgA.fOsc / (4 * cfgA.pwmPrescale * 2919) ∧ cfgOne.WellFormed
      ∧ cfgOne.fOsc / (4 * cfgOne.pwmPrescale * 65535) = 1 := by decide

theorem witness_ProducedFrequencyIsAtLeastTheRequest :
    cfgA.WellFormed ∧ pwmQuotient cfgA 2919 ≤ 256 ∧ 257 ≤ pwmQuotient cfgA 2918 ∧ 1 ≤ pwmQuotient cfgA 65535 := by decide

theorem witness_DutyTracksThePeriodOnceStarted :
    let s := offered [.cmd 0x300000FFFF00000000, .hw .pwmCount]
    (0xFFFF : BitVec 16) ≠ 0 ∧ s.nextCommand = some (.pwmStart 0xFFFF) ∧ (∃ t, Reaches 1 s t) ∧ (∃ t, Reaches 2 s t)
      ∧ s.noReset 2 :=
  ⟨by decide, by decide, ⟨_, rfl⟩, ⟨_, rfl⟩, by unfold State.noReset; decide⟩

/-- No count, a full period of 19, and one count more. -/
theorem witness_WaveformRepeatsEveryPeriod :
    blockA.pton = true ∧ ({ blockA with pwmtmr := 0 } : State).pwmtmr = 0 ∧ blockA.ocen = true
      ∧ ∀ k ∈ [0, 19, 20], (offered (List.replicate k (.hw .pwmCount))).events = List.replicate k (.hw .pwmCount) ++ [] := by
  decide

theorem witness_RangeMapTakesEndsToEnds :
    (0x7FFF : BitVec 16) ≠ 0x8000 ∧ (0x8000 : BitVec 16) ≠ 0x7FFF ∧ (0 : BitVec 16) ≠ 0xFFFF := by decide

/-- A value, an equal pair of ends, and a result outside i16. -/
theorem witness_MapRoutineComputesRangeMap :
    9 ≤ 9 ∧ rangeMap 1023 0 1023 0 255 = some 255 ∧ rangeMap 7 5 5 0 10 = none ∧ rangeMap 32767 0 1 0 2 = none := by decide

/-- The host acts `n` times. -/
def hostActs (n : Nat) : List SysEvent := List.replicate n (.host 0)

theorem witness_DelaysAndMapIssueNoCommand :
    (∃ z, (Routine.launch .delayUs [2] blockA false).run (.hw .tmrCount :: hostActs 6) = .next z)
      ∧ (∃ z, (Routine.launch .delayMs [1] blockA true).run (.hw .pwmCount :: hostActs 12) = .next z)
      ∧ (∃ z, (Routine.launch .map [5, 0, 10, 100, 0] blockA false).run (hostActs 9) = .next z) :=
  ⟨⟨_, rfl⟩, ⟨_, rfl⟩, ⟨_, rfl⟩⟩

/-- A handler step before `delay_ms(1)` returns counts, one after it does not (R155). -/
theorem test_ticks_counted_until_return :
    let y := Routine.launch .delayMs [1] { blockA with tbctl := 0b1111 } false
    System.ticksUntilReturn (.hw .tickIsr :: hostActs 40) y = 1
      ∧ System.ticksUntilReturn (hostActs 40 ++ [.hw .tickIsr]) y = 0 := by decide

theorem witness_OneCommandRoutinesRunTheirCommand :
    3 ≤ 3 ∧ ∃ z, (Routine.launch .start [(0xFFFF#16).toNat] blockA false).run (hostActs 3) = .next z
      ∧ z.host.returned = some none ∧ z.ttb.pwmper = 10 :=
  ⟨by decide, _, rfl, rfl, rfl⟩

theorem witness_ReadRoutinesReturnTheSample :
    let schedule := hostActs 12 ++ .hw (.adcDone 0x3FF) :: hostActs 20
    blockA.cfg.WellFormed ∧ (∀ d, SysEvent.hw (.reset d) ∉ schedule)
      ∧ (∃ z, (Routine.launch .read [] blockA false).run schedule = .next z ∧ z.host.returned = some (some 0x3FF))
      ∧ (∃ z, (Routine.launch .read8bit [] blockA false).run schedule = .next z ∧ z.host.returned = some (some 0xFF)) :=
  ⟨by decide, by simp [hostActs, List.replicate], ⟨_, rfl, rfl⟩, ⟨_, rfl, rfl⟩⟩

/-- The routine waits for its conversion and returns the drawn sample. -/
theorem witness_ReadChannelReturnsTenBits :
    let schedule := hostActs 19 ++ .hw (.adcDone 0x3FF) :: hostActs 33
    blockA.cfg.WellFormed ∧ (∀ d, SysEvent.hw (.reset d) ∉ schedule)
      ∧ ∃ z, (Routine.launch .readChannel [(0x97#8).toNat] blockA false).run schedule = .next z
          ∧ z.host.returned = some (some 0x3FF) :=
  ⟨by decide, by simp [hostActs, List.replicate], _, rfl, rfl⟩

/-- A tone of no duration, a tone still sounding, and a tone of frequency 0. -/
theorem witness_PlayFreqLeavesTheBuzzerOff :
    (1000 : BitVec 16) ≠ 0
      ∧ (∃ z, (Routine.launch .playFreq [(1000#16).toNat, (0#32).toNat] blockA true).run (hostActs 16) = .next z
          ∧ z.host.returned = some none)
      ∧ (∃ z, (Routine.launch .playFreq [(1000#16).toNat, (2#32).toNat] blockA false).run (hostActs 20) = .next z
          ∧ z.host.returned = none) :=
  ⟨by decide, ⟨_, rfl, rfl⟩, ⟨_, rfl, rfl⟩⟩

end Sys2Proof.Tests
end

section
/-! The illegal words (spec/30_encoding.md R66). A word is illegal where no command is read from it, so what is known of
the formats' commands gives when each format rejects; the opcode then says which format reads the operands. -/

namespace Sys2Proof

open Sys2Proof.Machine

/-- The opcodes R65 assigns to format N. -/
def IsFormatN (op : Nat) : Prop := (0x10 ≤ op ∧ op ≤ 0x15) ∨ (0x21 ≤ op ∧ op ≤ 0x27) ∨ (0x31 ≤ op ∧ op ≤ 0x33)

/-- R66's list over the three fields as numbers: an unassigned opcode, a reserved operand bit, or a reserved register. -/
def ListedIllegal (op a b : Nat) : Prop :=
  (op = 0x00 ∨ (0x02 ≤ op ∧ op ≤ 0x0F) ∨ (0x18 ≤ op ∧ op ≤ 0x1F) ∨ (0x28 ≤ op ∧ op ≤ 0x2F) ∨ 0x34 ≤ op)
  ∨ (op = 0x01 ∧ (16 ≤ a ∨ b ≠ 0))
  ∨ (op = 0x16 ∧ b ≠ 0)
  ∨ (op = 0x20 ∧ (256 ≤ a ∨ b ≠ 0))
  ∨ (op = 0x30 ∧ (65536 ≤ a ∨ b ≠ 0))
  ∨ (IsFormatN op ∧ (a ≠ 0 ∨ b ≠ 0))
  ∨ (op = 0x01 ∧ 0xB ≤ a % 16)

/-- The decoder is total: what is not a command is illegal. -/
theorem exists_illegal_iff {d : Decoded} : (∃ r, d = .illegal r) ↔ ¬ ∃ i, d = .command i := by
  cases d <;> simp

/-! Operand fields as numbers. -/

/-- The bits of a field from bit `k` up are 0 iff its number is below `2 ^ k`. -/
theorem extractLsb'_high_eq_zero_iff {k m : Nat} (a : BitVec 32) (h : 32 ≤ k + m) :
    a.extractLsb' k m = 0 ↔ a.toNat < 2 ^ k := by
  have hlt : a.toNat / 2 ^ k < 2 ^ m := by
    rw [Nat.div_lt_iff_lt_mul (Nat.two_pow_pos k), ← Nat.pow_add, Nat.add_comm]
    exact a.isLt.trans_le (Nat.pow_le_pow_right (by decide) h)
  rw [← BitVec.toNat_inj, BitVec.extractLsb'_toNat, Nat.shiftRight_eq_div_pow, Nat.mod_eq_of_lt hlt]
  simp [Nat.div_eq_zero_iff]

/-- The register number in `a[3:0]` is one `RDREG` accepts iff it is below 0xB (R65). -/
theorem extractLsb'_register_le_iff (a : BitVec 32) : a.extractLsb' 0 4 ≤ 0xA#4 ↔ a.toNat % 16 < 0xB := by
  simp [BitVec.le_def, Nat.lt_succ_iff]

theorem eq_zero_iff_toNat (a : BitVec 32) : a = 0 ↔ a.toNat = 0 := BitVec.toNat_inj.symm

/-! When each format rejects its operands. -/

theorem decodeN_illegal_iff {i : Instr} {a b : BitVec 32} :
    (∃ r, decodeN i a b = .illegal r) ↔ a.toNat ≠ 0 ∨ b.toNat ≠ 0 := by
  simp only [exists_illegal_iff, decodeN_eq_command, eq_zero_iff_toNat, exists_and_left, exists_eq', and_true]
  omega

theorem decodeT1_illegal_iff {a b : BitVec 32} : (∃ r, decodeT1 a b = .illegal r) ↔ b.toNat ≠ 0 := by
  simp only [exists_illegal_iff, decodeT1_eq_command, eq_zero_iff_toNat, exists_and_left, exists_eq', and_true, ne_eq]

theorem decodeR_illegal_iff {a b : BitVec 32} :
    (∃ r, decodeR a b = .illegal r) ↔ (16 ≤ a.toNat ∨ b.toNat ≠ 0) ∨ 0xB ≤ a.toNat % 16 := by
  simp only [exists_illegal_iff, decodeR_eq_command, extractLsb'_high_eq_zero_iff a (k := 4) (m := 28) (by decide),
    extractLsb'_register_le_iff, eq_zero_iff_toNat, exists_and_left, exists_eq', and_true]
  omega

theorem decodeC_illegal_iff {a b : BitVec 32} :
    (∃ r, decodeC a b = .illegal r) ↔ 256 ≤ a.toNat ∨ b.toNat ≠ 0 := by
  simp only [exists_illegal_iff, decodeC_eq_command, extractLsb'_high_eq_zero_iff a (k := 8) (m := 24) (by decide),
    eq_zero_iff_toNat, exists_and_left, exists_eq', and_true]
  omega

theorem decodeF_illegal_iff {a b : BitVec 32} :
    (∃ r, decodeF a b = .illegal r) ↔ 65536 ≤ a.toNat ∨ b.toNat ≠ 0 := by
  simp only [exists_illegal_iff, decodeF_eq_command,
    extractLsb'_high_eq_zero_iff a (k := 16) (m := 16) (by decide), eq_zero_iff_toNat,
    exists_and_left, exists_eq', and_true]
  omega

/-! What R66 lists under the opcodes of each format. -/

theorem listedIllegal_rdreg {a b : Nat} : ListedIllegal 0x01 a b ↔ (16 ≤ a ∨ b ≠ 0) ∨ 0xB ≤ a % 16 := by
  unfold ListedIllegal IsFormatN; omega

theorem listedIllegal_elapsed {a b : Nat} : ListedIllegal 0x16 a b ↔ b ≠ 0 := by unfold ListedIllegal IsFormatN; omega

theorem not_listedIllegal_tcmp {a b : Nat} : ¬ ListedIllegal 0x17 a b := by unfold ListedIllegal IsFormatN; omega

theorem listedIllegal_adcSelect {a b : Nat} : ListedIllegal 0x20 a b ↔ 256 ≤ a ∨ b ≠ 0 := by
  unfold ListedIllegal IsFormatN; omega

theorem listedIllegal_pwmStart {a b : Nat} : ListedIllegal 0x30 a b ↔ 65536 ≤ a ∨ b ≠ 0 := by
  unfold ListedIllegal IsFormatN; omega

theorem listedIllegal_formatN {op a b : Nat} (h : IsFormatN op) : ListedIllegal op a b ↔ a ≠ 0 ∨ b ≠ 0 := by
  unfold ListedIllegal; simp only [h, true_and]; unfold IsFormatN at h; omega

theorem decodeN_illegal_iff_listed {i : Instr} {op : Nat} {a b : BitVec 32} (h : IsFormatN op) :
    (∃ r, decodeN i a b = .illegal r) ↔ ListedIllegal op a.toNat b.toNat :=
  decodeN_illegal_iff.trans (listedIllegal_formatN h).symm

/-- R66 over the three fields, opcode by opcode of R65's map. -/
theorem decodeFields_illegal_iff (op : BitVec 8) (a b : BitVec 32) :
    (∃ r, decodeFields op a b = .illegal r) ↔ ListedIllegal op.toNat a.toNat b.toNat := by
  unfold decodeFields
  split
  case h_1 hop => rw [hop, decodeR_illegal_iff, listedIllegal_rdreg]
  case h_8 hop => rw [hop, decodeT1_illegal_iff, listedIllegal_elapsed]
  case h_9 hop => simp [hop, not_listedIllegal_tcmp]
  case h_10 hop => rw [hop, decodeC_illegal_iff, listedIllegal_adcSelect]
  case h_18 hop => rw [hop, decodeF_illegal_iff, listedIllegal_pwmStart]
  case h_22 =>
    simp only [imp_false] at *
    exact iff_of_true ⟨_, rfl⟩ (.inl (by omega))
  all_goals next hop => exact decodeN_illegal_iff_listed (by unfold IsFormatN; omega)

/-- The step that accepts an illegal word answers an error and changes no register (R66, 60_exceptions R181). -/
theorem step_illegal {w : CommandWord} {r : IllegalReason} {s : State} {rest : List Event}
    (hw : decode w = .illegal r) (hs : s.events = .cmd w :: rest) :
    step s = .next { s with events := rest, rsp := some ⟨true, 0⟩ } :=
  (step_cons hs).trans (acceptCommand_illegal _ hw)

/-- Settles O4: the list by the opcode map, the answer by the step that accepts an illegal word. -/
theorem illegalWordsAreExactlyThoseListed : Obligations.IllegalWordsAreExactlyThoseListed :=
  ⟨fun w => decodeFields_illegal_iff (cmdOp w) (cmdA w) (cmdB w), fun _ _ _ _ => step_illegal,
    ⟨.unassignedOpcode, by decide⟩, ⟨.unassignedOpcode, by decide⟩⟩

end Sys2Proof
end

section
/-! The timebase commands (spec/41_timebase.md R80 to R87). What an opcode's words do follows from what its operand
fields decode to. Each command's next state follows from its arm of `exec`, the bit writes of TBCTL read as masks, and
the elapsed-time subtraction read over the integers. -/

namespace Sys2Proof

open Sys2Proof.Machine

/-! The words of an opcode. -/

/-- The words of an opcode, from the commands its operand fields decode to: every other word is illegal. -/
theorem wordsOf_of_decodeFields {op : BitVec 8} {legal : BitVec 32 → BitVec 32 → Option Instr}
    (h : ∀ a b i, decodeFields op a b = .command i ↔ legal a b = some i) : WordsOf op legal := by
  intro a b s rest hs
  cases hl : legal a b with
  | some i =>
    have hd : decode (mkCommand op a b) = .command i := (decode_mkCommand op a b).trans ((h a b i).2 hl)
    exact (step_cons hs).trans (acceptCommand_command _ hd)
  | none =>
    obtain ⟨r, hr⟩ : ∃ r, decode (mkCommand op a b) = .illegal r := exists_illegal_iff.2 (by simp [h, hl])
    exact step_illegal hr hs

/-- The words of an opcode of format N (30_encoding R62). -/
theorem wordsOf_plainWords {op : BitVec 8} {i : Instr} (h : ∀ a b, decodeFields op a b = decodeN i a b) :
    WordsOf op (plainWords i) :=
  wordsOf_of_decodeFields fun a b j => by simp [h, plainWords, and_assoc]

/-- The opcode of `ELAPSED` reads its fields in format T1, that of `TCMP` as they stand (30_encoding R62, R65). -/
theorem decodeFields_elapsed (a b : BitVec 32) : decodeFields 0x16 a b = decodeT1 a b := rfl

theorem decodeFields_tcmp (a b : BitVec 32) : decodeFields 0x17 a b = .command (.tcmp a b) := rfl

/-! Responses as whole next states. -/

/-- A response of full width is answered as it stands. -/
theorem respond_eq (s : State) (d : BitVec 32) : s.respond d = { s with rsp := some ⟨false, d⟩ } := by
  simp [State.respond]

/-- A truth value is answered as 1 or 0 (00_scope R7). -/
theorem respond_ofBool (s : State) (b : Bool) :
    s.respond (BitVec.ofBool b) = { s with rsp := some ⟨false, if b then 1 else 0⟩ } := by
  cases b <;> rfl

/-! Writes of TBCTL. -/

/-- The three bits `TB_ARM` writes, as masks: only GIE is kept (41_timebase R80). -/
theorem armTick_tbctl_eq_mask (s : State) : s.armTick.tbctl = (s.tbctl &&& 0b1000#4) ||| 0b0011#4 := by
  apply BitVec.eq_of_getLsbD_eq
  intro j hj
  simp only [armTick_tbctl, getLsbD_putBit, BitVec.getLsbD_or, BitVec.getLsbD_and]
  interval_cases j <;> simp

@[simp] theorem putAdChs_ton (s : State) (ch : BitVec 8) : (s.putAdChs ch).ton = s.ton := rfl

/-- TON after a command: `TB_ARM` sets it, every other command keeps it. -/
theorem exec_ton {i : Instr} {s t : State} (h : exec i s = .next t) : t.ton = (decide (i = .tbArm) || s.ton) := by
  cases i with
  | tbArm => cases h; simp
  | rdreg n =>
    obtain ⟨r, hr⟩ := execRdreg_spec n s
    rw [exec_rdreg, hr] at h; cases h; rfl
  | pwmStart f =>
    rw [exec_pwmStart] at h
    by_cases hf : f = 0
    · rw [hf, execPwmStart_zero] at h; cases h; rfl
    · rw [execPwmStart_nonzero f s hf] at h; cases h; rfl
  | _ => cases h; simp

/-- When the tick handler may run (60_exceptions R185). -/
theorem enabled_tickIsr (s : State) : HwEvent.tickIsr.enabled s = (s.tif && s.tie && s.gie) := rfl

/-! The elapsed time. -/

/-- The subtraction over the integers: one wrap of the counter is added back, and the difference reduced (41_timebase
R86, R88). -/
theorem elapsedTicks_toNat (ticks start : BitVec 32) :
    (elapsedTicks ticks start).toNat = (ticks.toNat + 2 ^ 32 - start.toNat) % 2 ^ 32 := by
  have hstart := start.isLt
  rw [elapsedTicks, BitVec.toNat_sub]
  congr 1
  omega

/-- The comparison of `TCMP` over the integers (41_timebase R87). -/
theorem durationReached_iff (ticks start dur : BitVec 32) :
    durationReached ticks start dur = true ↔ (ticks.toNat + 2 ^ 32 - start.toNat) % 2 ^ 32 ≥ dur.toNat := by
  rw [durationReached, decide_eq_true_iff, BitVec.le_def, elapsedTicks_toNat]

/-! The statements. -/

/-- Settles O11: the arming writes as one mask, TON after each command, and the words of format N. -/
theorem tbArmStartsTheTimer : Obligations.TbArmStartsTheTimer := by
  refine ⟨fun s => ?_, fun s t i h hton => ?_, wordsOf_plainWords fun _ _ => rfl⟩
  · rw [← armTick_tbctl_eq_mask]; rfl
  · rw [exec_ton h, hton, Bool.or_true]

/-- Settles O12: writing one bit of TBCTL evaluates to its mask, and the bits after it say when the handler is
enabled. -/
theorem enableCommandsWriteTheirBit : Obligations.EnableCommandsWriteTheirBit := by
  refine ⟨fun s => ⟨rfl, rfl, rfl, rfl⟩, fun s t h => ?_, fun s t h => ?_, wordsOf_plainWords fun _ _ => rfl,
    wordsOf_plainWords fun _ _ => rfl, wordsOf_plainWords fun _ _ => rfl, wordsOf_plainWords fun _ _ => rfl⟩
  · cases h; simp [enabled_tickIsr]
  · cases h; simp [enabled_tickIsr]

/-- Settles O14: the answer is the subtraction over the integers, and format T1 leaves `start` free. -/
theorem elapsedSubtractsModuloTheWrap : Obligations.ElapsedSubtractsModuloTheWrap := by
  refine ⟨fun s start => ?_, wordsOf_of_decodeFields fun a b i => ?_⟩
  · rw [exec_elapsed, respond_eq, ← elapsedTicks_toNat, BitVec.ofNat_toNat, BitVec.setWidth_eq]
  · rw [decodeFields_elapsed, decodeT1_eq_command]; simp

/-- Settles O15: the answer is the comparison over the integers, and every word of the opcode is a command. -/
theorem tcmpComparesTheElapsedTime : Obligations.TcmpComparesTheElapsedTime := by
  refine ⟨fun s start dur => ?_, wordsOf_of_decodeFields fun a b i => ?_⟩
  · simp only [exec_tcmp, respond_ofBool, durationReached_iff]
  · rw [decodeFields_tcmp]; simp

end Sys2Proof
end

section
/-! The Analog Sampler's alignment and channel (spec/42_adc.md R100, R101, R102, R105, R106). ADRES is read as a number
once for each value of FMT; what the two reading commands answer and what is seen after an alignment command follow. -/

namespace Sys2Proof

open Sys2Proof.Machine

/-! The view ADRES as a number (10_state R18). -/

theorem adres_toNat_of_right {s : State} (h : s.adFmt = false) : s.adres.toNat = s.adsamp.toNat := by
  rw [State.adres, if_neg (by simp [h]), BitVec.toNat_setWidth_of_le (by decide)]

theorem adres_toNat_of_left {s : State} (h : s.adFmt = true) : s.adres.toNat = s.adsamp.toNat * 64 := by
  rw [State.adres, if_pos h, toNat_append_zero6]

/-- `ADRES[15:8]`, the high byte of the view, as a number (42_adc R106). -/
theorem adresHigh_toNat (s : State) : (s.adres.extractLsb' 8 8).toNat = s.adres.toNat / 256 := by
  have hlt : s.adres.toNat / 256 < 256 := Nat.div_lt_of_lt_mul s.adres.isLt
  rw [BitVec.extractLsb'_toNat, Nat.shiftRight_eq_div_pow, Nat.mod_eq_of_lt hlt]

/-- FMT read through its mask (10_state R17). -/
theorem adctl_and_fmt_eq_zero_iff (s : State) : s.adctl &&& 0x80#8 = 0 ↔ s.adFmt = false := by
  have hmask : s.adctl &&& 0x80#8 = if s.adFmt then 0x80#8 else 0#8 := BitVec.and_twoPow s.adctl 7
  rw [hmask]
  cases s.adFmt <;> simp

/-- A response of any width, as the 32-bit value of its number (00_scope R7). -/
theorem respond_eq_ofNat (s : State) {w : Nat} (d : BitVec w) :
    s.respond d = { s with rsp := some ⟨false, BitVec.ofNat 32 d.toNat⟩ } := by
  rw [BitVec.ofNat_toNat, State.respond]

/-- What the two reading commands answer, by the number ADRES shows (42_adc R105, R106). -/
theorem exec_adcResult_eq {s : State} {n : Nat} (h : s.adres.toNat = n) :
    exec .adcResult s = .next { s with rsp := some ⟨false, BitVec.ofNat 32 n⟩ } := by
  rw [exec_adcResult, respond_eq_ofNat, h]

theorem exec_adcResultHi_eq {s : State} {n : Nat} (h : s.adres.toNat / 256 = n) :
    exec .adcResultHi s = .next { s with rsp := some ⟨false, BitVec.ofNat 32 n⟩ } := by
  rw [exec_adcResultHi, respond_eq_ofNat, adresHigh_toNat, h]

/-! The channel. -/

/-- Where bit 0 is set in the end, what it was before does not matter. -/
theorem or_one_eq_clear_or_one (v c : BitVec 8) : v ||| c ||| 0x01#8 = (v &&& 0xFE#8) ||| c ||| 0x01#8 := by
  apply BitVec.eq_of_getLsbD_eq
  intro j hj
  simp only [BitVec.getLsbD_or, BitVec.getLsbD_and]
  interval_cases j <;> simp

/-- ADCTL once a channel is selected and ON set, as the formula of 42_adc R100. -/
theorem select_adctl_eq_mask (s : State) (ch : BitVec 8) :
    ((s.putAdChs ch).putAdOn true).adctl
      = (s.adctl &&& ~~~s.cfg.adcChsMask &&& 0xFE#8) ||| (ch &&& s.cfg.adcChsMask) ||| 0x01#8 := by
  rw [← or_one_eq_clear_or_one]
  rfl

/-- The opcode of `ADC_SELECT` reads its fields in format C (30_encoding R62, R65). -/
theorem decodeFields_adcSelect (a b : BitVec 32) : decodeFields 0x20 a b = decodeC a b := rfl

/-- The channel field of format C as a number (30_encoding R63). -/
theorem extractLsb'_channel (a : BitVec 32) : a.extractLsb' 0 8 = BitVec.ofNat 8 a.toNat := by
  rw [BitVec.ofNat_toNat, BitVec.setWidth_eq_extractLsb' (by decide)]

/-! The statements. -/

/-- Settles O16: the write of ADCTL as the one formula, and format C with its bounds as numbers. -/
theorem adcSelectRewritesOnlyTheChannel : Obligations.AdcSelectRewritesOnlyTheChannel := by
  refine ⟨fun s ch => ?_, wordsOf_of_decodeFields fun a b i => ?_⟩
  · rw [← select_adctl_eq_mask]; rfl
  · rw [decodeFields_adcSelect, decodeC_eq_command,
      extractLsb'_high_eq_zero_iff a (k := 8) (m := 24) (by decide), extractLsb'_channel]
    simp [and_assoc]

/-- Settles O17: writing FMT evaluates to its mask, and the alignment then in force says what ADRES shows of the
sample, which is kept. -/
theorem adcJustifyWritesTheAlignment : Obligations.AdcJustifyWritesTheAlignment := by
  refine ⟨fun s => ⟨rfl, rfl⟩, fun s t h => ?_, fun s t h => ?_, wordsOf_plainWords fun _ _ => rfl,
    wordsOf_plainWords fun _ _ => rfl⟩
  · cases h; exact adres_toNat_of_right (by simp)
  · cases h; exact adres_toNat_of_left (by simp)

/-- Settles O20: in each alignment, the number ADRES shows and its high byte. -/
theorem adcResultsReadTheAlignedSample : Obligations.AdcResultsReadTheAlignedSample := by
  refine ⟨fun s => ⟨fun hfmt => ?_, fun hfmt => ?_⟩, wordsOf_plainWords fun _ _ => rfl,
    wordsOf_plainWords fun _ _ => rfl⟩
  · have hadres := adres_toNat_of_right ((adctl_and_fmt_eq_zero_iff s).1 hfmt)
    exact ⟨exec_adcResult_eq hadres, exec_adcResultHi_eq (by rw [hadres])⟩
  · rw [ne_eq, adctl_and_fmt_eq_zero_iff, Bool.not_eq_false] at hfmt
    have hadres := adres_toNat_of_left hfmt
    exact ⟨exec_adcResult_eq hadres, exec_adcResultHi_eq (by omega)⟩

end Sys2Proof
end

section
/-! The Waveform Generator's commands and its scaler (spec/43_pwm.md R120 to R126). The quotient of R121 is bounded
below through the multiplication it undoes; where both bits of PWMCTL are written, the register is those two bits,
whatever it held. -/

namespace Sys2Proof

open Sys2Proof.Machine

/-! The scaler (43_pwm R121). -/

/-- A lower bound of the quotient, without the division. -/
theorem le_pwmQuotient_iff {c : Config} {f k : Nat} (hc : c.WellFormed) (hf : 1 ≤ f) :
    k ≤ pwmQuotient c f ↔ k * (4 * c.pwmPrescale * f) ≤ c.fOsc := by
  obtain ⟨-, -, ⟨hprescale, -⟩, -⟩ := hc
  exact Nat.le_div_iff_mul_le (by positivity)

/-- The bound R5(d) puts on F_OSC is the quotient's at the highest frequency, and a lower one divides by less. -/
theorem one_le_pwmQuotient {c : Config} {f : Nat} (hc : c.WellFormed) (hf : 1 ≤ f) (hmax : f ≤ 65535) :
    1 ≤ pwmQuotient c f := by
  have hosc : 4 * c.pwmPrescale * 65535 ≤ c.fOsc := by
    obtain ⟨-, -, -, hosc, -⟩ := hc
    exact hosc
  rw [le_pwmQuotient_iff hc hf, Nat.one_mul]
  exact (Nat.mul_le_mul_left _ hmax).trans hosc

/-- The clamp as a bound on the frequency: both sides say that `1028 * PWM_PRESCALE * freq` is at most F_OSC. -/
theorem pwmQuotient_clamps_iff {c : Config} {f : Nat} (hc : c.WellFormed) (hf : 1 ≤ f) :
    257 ≤ pwmQuotient c f ↔ f ≤ c.fOsc / (1028 * c.pwmPrescale) := by
  have hprescale : 0 < 1028 * c.pwmPrescale := by
    obtain ⟨-, -, ⟨hprescale, -⟩, -⟩ := hc
    omega
  have hfactors : 257 * (4 * c.pwmPrescale * f) = f * (1028 * c.pwmPrescale) := by ring
  rw [le_pwmQuotient_iff hc hf, Nat.le_div_iff_mul_le hprescale, hfactors]

/-- The period in numbers, and on the two sides of the clamp. -/
theorem pwmPeriod_eq_min (c : Config) (f : Nat) : pwmPeriod c f = min (pwmQuotient c f - 1) 255 := rfl

theorem pwmPeriod_of_clamped {c : Config} {f : Nat} (h : 257 ≤ pwmQuotient c f) : pwmPeriod c f = 255 := by
  rw [pwmPeriod_eq_min]; omega

theorem pwmPeriod_add_one_of_unclamped {c : Config} {f : Nat} (hone : 1 ≤ pwmQuotient c f)
    (h : pwmQuotient c f < 257) : pwmPeriod c f + 1 = pwmQuotient c f := by
  rw [pwmPeriod_eq_min]; omega

/-! Both bits of PWMCTL (10_state R19). -/

/-- A two-bit register once both bits are written. -/
theorem putBit_zero_one (v : BitVec 2) (a b : Bool) :
    putBit (putBit v 0 a) 1 b = BitVec.ofBool b ++ BitVec.ofBool a := by
  apply BitVec.eq_of_getLsbD_eq
  intro j hj
  simp only [getLsbD_putBit, BitVec.getLsbD_append, BitVec.getLsbD_ofBool]
  interval_cases j <;> simp

/-- OCEN and PTON are set after `PWM_START` and clear after `PWM_STOP`, whatever PWMCTL held. -/
theorem putPton_putOcen_pwmctl (s : State) : ((s.putPton true).putOcen true).pwmctl = 0b11#2 := by
  rw [putOcen_pwmctl, putPton_pwmctl, putBit_zero_one]; rfl

theorem putOcen_putPton_pwmctl (s : State) : ((s.putOcen false).putPton false).pwmctl = 0b00#2 := by
  rw [putPton_pwmctl, putOcen_pwmctl, putBit_comm _ (by decide), putBit_zero_one]; rfl

/-- With output compare off the pin is inactive (10_state R23). -/
theorem pwmOut_of_not_ocen {s : State} (h : s.ocen = false) : s.pwmOut = false := by
  rw [State.pwmOut, h, Bool.false_and]

/-- When the PWM counter may count (43_pwm R128). -/
theorem enabled_pwmCount (s : State) : HwEvent.pwmCount.enabled s = s.pton := rfl

/-! The words of `PWM_START` (30_encoding R62, R65). -/

theorem decodeFields_pwmStart (a b : BitVec 32) : decodeFields 0x30 a b = decodeF a b := rfl

/-- The frequency field of format F as a number (30_encoding R63). -/
theorem extractLsb'_frequency (a : BitVec 32) : a.extractLsb' 0 16 = BitVec.ofNat 16 a.toNat := by
  rw [BitVec.ofNat_toNat, BitVec.setWidth_eq_extractLsb' (by decide)]

/-! The statements. -/

/-- Settles O46: the quotient's bounds, and the period on each side of the clamp. -/
theorem periodClampsBelowTheLowestFrequency : Obligations.PeriodClampsBelowTheLowestFrequency := by
  intro c f hc hf hmax
  have hone := one_le_pwmQuotient hc hf hmax
  have hclamp := pwmQuotient_clamps_iff hc hf
  refine ⟨hone, pwmPeriod_eq_min c f, hclamp, fun hlow => pwmPeriod_of_clamped (hclamp.2 hlow), fun hhigh => ?_⟩
  exact pwmPeriod_add_one_of_unclamped hone (Nat.lt_of_not_le fun hq => (hclamp.1 hq).not_gt hhigh)

/-- Settles O21: the two cases of `PWM_START`, with PWMCTL as the bits it writes, and format F with its bounds as
numbers. -/
theorem pwmStartLoadsPeriodAndDuty : Obligations.PwmStartLoadsPeriodAndDuty := by
  refine ⟨execPwmStart_zero, fun s freq _ hfreq => ⟨pwmPeriod s.cfg freq.toNat, rfl, ?_⟩,
    wordsOf_of_decodeFields fun a b i => ?_⟩
  · rw [exec_pwmStart, execPwmStart_nonzero freq s hfreq, ← putPton_putOcen_pwmctl s]; rfl
  · rw [decodeFields_pwmStart, decodeF_eq_command,
      extractLsb'_high_eq_zero_iff a (k := 16) (m := 16) (by decide), extractLsb'_frequency]
    simp [and_assoc]

/-- Settles O22: writing OCEN evaluates to its mask, `PWM_STOP` writes both bits, and the bits after each say what the
pin shows and whether the counter runs. -/
theorem pwmGatesWriteTheirBits : Obligations.PwmGatesWriteTheirBits := by
  refine ⟨fun s => ⟨rfl, rfl, ?_⟩, fun s t h => ?_, fun s t h => ⟨?_, ?_⟩, wordsOf_plainWords fun _ _ => rfl,
    wordsOf_plainWords fun _ _ => rfl, wordsOf_plainWords fun _ _ => rfl⟩
  · rw [exec_pwmStop, ← putOcen_putPton_pwmctl s]; rfl
  · cases h; exact pwmOut_of_not_ocen (by simp)
  · cases h; exact pwmOut_of_not_ocen (by simp)
  · cases h; simp [enabled_pwmCount]

end Sys2Proof
end

section
/-! The inspect command (spec/44_inspect.md R140). A read answers what `readReg` gives, so each register number is one
equation of `readReg`; the timer's registers and the view PWMOUT are then read as numbers. -/

namespace Sys2Proof

open Sys2Proof.Machine

/-! What `RDREG` answers. -/

/-- A register number that reads something answers it. -/
theorem exec_rdreg_of_readReg {s : State} {n : BitVec 4} {v : BitVec 32} (h : readReg s n = some v) :
    exec (.rdreg n) s = .next { s with rsp := some ⟨false, v⟩ } := by
  rw [exec_rdreg, execRdreg, h, ← respond_eq]

/-- A register narrower than the response is answered as its number (00_scope R7). -/
theorem exec_rdreg_of_readReg_setWidth {s : State} {n : BitVec 4} {w : Nat} {d : BitVec w}
    (h : readReg s n = some (d.setWidth 32)) :
    exec (.rdreg n) s = .next { s with rsp := some ⟨false, BitVec.ofNat 32 d.toNat⟩ } := by
  rw [exec_rdreg_of_readReg h, BitVec.ofNat_toNat]

/-- The numbers 0xB to 0xF read nothing (10_state R28). -/
theorem readReg_reserved (s : State) {n : BitVec 4} (h : 0xB ≤ n.toNat) : readReg s n = none := by
  unfold readReg
  split
  case h_12 => rfl
  all_goals omega

theorem exec_rdreg_reserved (s : State) {n : BitVec 4} (h : 0xB ≤ n.toNat) :
    exec (.rdreg n) s = .next { s with rsp := some ⟨true, 0⟩ } := by
  rw [exec_rdreg, execRdreg, readReg_reserved s h, State.raiseIllegalCommand]

/-! The registers that are not bit vectors of their own. -/

/-- A timer value that fits the response is answered as it stands (10_state R28). -/
theorem timerRead_of_lt {v : Nat} (h : v < 2 ^ 32) : timerRead v = BitVec.ofNat 32 v := if_pos h

/-- A register that holds a timer value answers, and answers the value where it fits. -/
theorem exec_rdreg_of_timerRead {s : State} {n : BitVec 4} {v : Nat} (h : readReg s n = some (timerRead v)) :
    ∃ d, exec (.rdreg n) s = .next { s with rsp := some ⟨false, d⟩ } ∧ (v < 2 ^ 32 → d = BitVec.ofNat 32 v) :=
  ⟨timerRead v, exec_rdreg_of_readReg h, timerRead_of_lt⟩

/-- OCEN read through its mask (10_state R19). -/
theorem pwmctl_and_ocen_ne_zero_iff (s : State) : s.pwmctl &&& 0b10#2 ≠ 0 ↔ s.ocen = true := by
  have hmask : s.pwmctl &&& 0b10#2 = if s.ocen then 0b10#2 else 0#2 := BitVec.and_twoPow s.pwmctl 1
  rw [hmask]
  cases s.ocen <;> simp

/-- The level of the pin over the registers' numbers (10_state R23). -/
theorem pwmOut_iff (s : State) :
    s.pwmOut = true ↔ s.pwmctl &&& 0b10#2 ≠ 0 ∧ s.pwmtmr.toNat < s.pwmduty.toNat := by
  rw [State.pwmOut, Bool.and_eq_true, decide_eq_true_iff, BitVec.lt_def, pwmctl_and_ocen_ne_zero_iff]

/-- `RDREG 0xA` answers the truth value PWMOUT. -/
theorem exec_rdreg_pwmOut (s : State) :
    exec (.rdreg 0xA) s = .next { s with rsp := some ⟨false, if s.pwmOut then 1 else 0⟩ } := by
  rw [← respond_ofBool]; rfl

/-! The words of `RDREG` (30_encoding R62, R65). -/

theorem decodeFields_rdreg (a b : BitVec 32) : decodeFields 0x01 a b = decodeR a b := rfl

/-- The register number of format R (30_encoding R63). -/
theorem extractLsb'_register (a : BitVec 32) : a.extractLsb' 0 4 = BitVec.ofNat 4 a.toNat := by
  rw [BitVec.ofNat_toNat, BitVec.setWidth_eq_extractLsb' (by decide)]

/-- Reserved bits 0 and a register number `RDREG` accepts, as one bound on the whole field. -/
theorem register_field_iff (a : BitVec 32) :
    a.extractLsb' 4 28 = 0 ∧ a.extractLsb' 0 4 ≤ 0xA#4 ↔ a.toNat < 0xB := by
  rw [extractLsb'_high_eq_zero_iff a (k := 4) (m := 28) (by decide), extractLsb'_register_le_iff]
  omega

/-- The legal operands of opcode 0x01 and the command each runs. -/
theorem decodeR_eq_command_iff_toNat {a b : BitVec 32} {i : Instr} :
    decodeR a b = .command i ↔ (a.toNat < 0xB ∧ b = 0) ∧ .rdreg (BitVec.ofNat 4 a.toNat) = i := by
  rw [decodeR_eq_command, ← register_field_iff, extractLsb'_register]
  tauto

/-! The statement. -/

/-- Settles O23: one equation of `readReg` for each register number, and format R with its bound as a number. -/
theorem rdregReadsEachRegister : Obligations.RdregReadsEachRegister := by
  refine ⟨fun s => ⟨?ticks, ?tmr, ?tbctl, ?treload, ?adctl, ?adres, ?pwmctl, ?pwmper, ?pwmduty, ?pwmtmr, ?pwmout⟩,
    fun s _ => exec_rdreg_reserved s, wordsOf_of_decodeFields fun a b i => ?words⟩
  case ticks => exact exec_rdreg_of_readReg rfl
  case tmr => exact exec_rdreg_of_timerRead rfl
  case treload => exact exec_rdreg_of_timerRead rfl
  case adres => rw [exec_adcResult_eq rfl, exec_rdreg_of_readReg_setWidth rfl]
  case pwmout => simp only [exec_rdreg_pwmOut, pwmOut_iff]
  case words => rw [decodeFields_rdreg, decodeR_eq_command_iff_toNat]; simp
  case tbctl | adctl | pwmctl | pwmper | pwmduty | pwmtmr => exact exec_rdreg_of_readReg_setWidth rfl

end Sys2Proof
end

section
/-! The exception `IllegalCommand` (spec/60_exceptions.md R181). The one thing an illegal word writes is the response
port, and no step reads that port: so nothing is pending after the word, and the next event is taken as if it had not
come. -/

namespace Sys2Proof

open Sys2Proof.Machine

/-! No step reads the response port. -/

/-- A command overwrites the response it finds (10_state R26). -/
theorem exec_withRsp (i : Instr) (s : State) (r : Option Response) : exec i { s with rsp := r } = exec i s := by
  cases i with
  | rdreg n =>
    have hread : readReg { s with rsp := r } n = readReg s n := rfl
    rw [exec_rdreg, exec_rdreg, execRdreg, execRdreg, hread]
    cases readReg s n <;> rfl
  | pwmStart f =>
    rw [exec_pwmStart, exec_pwmStart]
    by_cases hf : f = 0
    · rw [hf, execPwmStart_zero, execPwmStart_zero]; rfl
    · rw [execPwmStart_nonzero f _ hf, execPwmStart_nonzero f s hf]; rfl
  | _ => rfl

/-- An agent's step is a step of the state whose response is withdrawn. -/
theorem hardwareStep_eq_of_rspIdle (e : HwEvent) (s : State) :
    hardwareStep e s = if e.enabled s.rspIdle then e.effect s.rspIdle else s.rspIdle := by
  rw [hardwareStep, enabled_rspIdle]

theorem hardwareStep_withRsp (e : HwEvent) (s : State) (r : Option Response) :
    hardwareStep e { s with rsp := r } = hardwareStep e s := by
  have hidle : ({ s with rsp := r } : State).rspIdle = s.rspIdle := rfl
  rw [hardwareStep_eq_of_rspIdle, hidle, ← hardwareStep_eq_of_rspIdle]

theorem acceptCommand_withRsp (w : CommandWord) (s : State) (r : Option Response) :
    acceptCommand w { s with rsp := r } = acceptCommand w s := by
  cases hd : decode w with
  | command i => rw [acceptCommand_command _ hd, acceptCommand_command _ hd, exec_withRsp]
  | illegal q => rw [acceptCommand_illegal _ hd, acceptCommand_illegal _ hd]; rfl

theorem takeEvent_withRsp (e : Event) (s : State) (r : Option Response) :
    takeEvent e { s with rsp := r } = takeEvent e s := by
  cases e with
  | cmd w => exact acceptCommand_withRsp w s r
  | hw h => exact congrArg Host.Outcome.next (hardwareStep_withRsp h s r)

/-- What the last step answered plays no part in the next one. -/
theorem step_withRsp (s : State) (r : Option Response) : step { s with rsp := r } = step s := by
  cases he : s.events with
  | nil => rw [step_nil he, State.rspIdle, he]; exact step_nil rfl
  | cons e rest =>
    exact (step_cons rfl).trans ((takeEvent_withRsp e { s with events := rest } r).trans (step_cons he).symm)

/-! The host program. -/

/-- The error answer refuses the program that issued the word. -/
theorem issue_illegal {y : System} {c : HostCmd} (dst : Option HostVar) {r : IllegalReason}
    (h : decode (encode (c.instr y.host.frame.vars y.host.buz)) = .illegal r) :
    y.issue c dst = .refused .illegalCommandIssued := by
  rw [System.issue, step_offerCommand, acceptCommand_illegal _ h]
  rfl

/-! The statement. -/

/-- Settles O7: the answer by the step that accepts an illegal word, no trace because no step reads the answer. -/
theorem illegalCommandLeavesNoTrace : Obligations.IllegalCommandLeavesNoTrace :=
  ⟨fun s _ _ rest hw hs => ⟨_, step_illegal hw hs, rfl, step_withRsp { s with events := rest } (some ⟨true, 0⟩)⟩,
    fun _ _ dst _ => issue_illegal dst⟩

end Sys2Proof
end

section
/-! The encoding (spec/30_encoding.md R60 to R68). A word is read opcode by opcode, and what each format gives back is
its operand fields; so the decoder and the encoder are inverse to each other. The rows of R65 are then one shape: an
opcode, and a width for each operand field. -/

namespace Sys2Proof

open Sys2Proof.Machine

/-! Decoder and encoder. -/

/-- The fields a command is read from are its opcode and its operands, and its register number is no reserved one. -/
theorem fields_of_decodeFields {op : BitVec 8} {a b : BitVec 32} {i : Instr} (h : decodeFields op a b = .command i) :
    i.wellFormed = true ∧ i.opcode = op ∧ i.operandA = a ∧ i.operandB = b := by
  have hopcode {k : BitVec 8} (hk : op.toNat = k.toNat) : k = op := (BitVec.eq_of_toNat_eq hk).symm
  unfold decodeFields at h
  split at h
  case h_1 hop =>
    obtain ⟨ha, rfl, hn, rfl⟩ := decodeR_eq_command.1 h
    exact ⟨decide_eq_true hn, hopcode hop, setWidth_extractLsb'_low a ha (by decide), rfl⟩
  case h_8 hop => obtain ⟨rfl, rfl⟩ := decodeT1_eq_command.1 h; exact ⟨rfl, hopcode hop, rfl, rfl⟩
  case h_9 hop => cases h; exact ⟨rfl, hopcode hop, rfl, rfl⟩
  case h_10 hop =>
    obtain ⟨ha, rfl, rfl⟩ := decodeC_eq_command.1 h
    exact ⟨rfl, hopcode hop, setWidth_extractLsb'_low a ha (by decide), rfl⟩
  case h_18 hop =>
    obtain ⟨ha, rfl, rfl⟩ := decodeF_eq_command.1 h
    exact ⟨rfl, hopcode hop, setWidth_extractLsb'_low a ha (by decide), rfl⟩
  case h_22 => cases h
  all_goals next hop => obtain ⟨rfl, rfl, rfl⟩ := decodeN_eq_command.1 h; exact ⟨rfl, hopcode hop, rfl, rfl⟩

/-- Settles O1: each format reads back the operands the encoder placed. -/
theorem decodeOfEncodeIsTheCommand : Obligations.DecodeOfEncodeIsTheCommand := by
  intro i hwf
  rw [encode, decode_mkCommand]
  cases i with
  | rdreg n =>
    have hn : (n.setWidth 32).extractLsb' 0 4 = n := extractLsb'_setWidth_low n (by decide)
    exact decodeR_eq_command.2 ⟨extractLsb'_setWidth_high n 28, rfl, hn.symm ▸ of_decide_eq_true hwf, congrArg _ hn⟩
  | adcSelect ch =>
    have hch : (ch.setWidth 32).extractLsb' 0 8 = ch := extractLsb'_setWidth_low ch (by decide)
    exact decodeC_eq_command.2 ⟨extractLsb'_setWidth_high ch 24, rfl, congrArg _ hch⟩
  | pwmStart f =>
    have hf : (f.setWidth 32).extractLsb' 0 16 = f := extractLsb'_setWidth_low f (by decide)
    exact decodeF_eq_command.2 ⟨extractLsb'_setWidth_high f 16, rfl, congrArg _ hf⟩
  | elapsed start => exact decodeT1_eq_command.2 ⟨rfl, rfl⟩
  | tcmp start dur => rfl
  | _ => exact decodeN_eq_command.2 ⟨rfl, rfl, rfl⟩

/-- Settles O2: the fields of a legal word are those of its command, and a word is its fields. -/
theorem legalWordIsItsCommandsEncoding : Obligations.LegalWordIsItsCommandsEncoding := by
  intro w i h
  obtain ⟨hwf, hop, ha, hb⟩ := fields_of_decodeFields h
  exact ⟨hwf, by rw [encode, hop, ha, hb, mkCommand_fields]⟩

/-- A word is read as a command iff the command is well-formed and assembles to the word. -/
theorem decode_eq_command_iff {w : CommandWord} {i : Instr} :
    decode w = .command i ↔ i.wellFormed = true ∧ encode i = w :=
  ⟨legalWordIsItsCommandsEncoding w i, fun ⟨hwf, hw⟩ => hw ▸ decodeOfEncodeIsTheCommand i hwf⟩

theorem wellFormed_of_decode {w : CommandWord} {i : Instr} (h : decode w = .command i) : i.wellFormed = true :=
  (decode_eq_command_iff.1 h).1

/-! The mask and match table. -/

/-- How many low bits of `a` and of `b` a command's format uses (R62, R63); the other bits are reserved. -/
def Instr.widthA : Instr → Nat
  | .rdreg _ => 4
  | .adcSelect _ => 8
  | .pwmStart _ => 16
  | .elapsed _ | .tcmp _ _ => 32
  | _ => 0

def Instr.widthB : Instr → Nat
  | .tcmp _ _ => 32
  | _ => 0

/-- The bound R65 puts on the register number. -/
def Instr.maxRegister : Instr → Option (BitVec 4)
  | .rdreg _ => some 0xA#4
  | _ => none

/-- The row of a command: its opcode is compared, and the reserved bits of its format. -/
def Instr.row (i : Instr) : OpcodeRow :=
  ⟨i.mnemonic, mkCommand 0xFF (BitVec.allOnes 32 <<< i.widthA) (BitVec.allOnes 32 <<< i.widthB), mkCommand i.opcode 0 0,
    i.maxRegister⟩

/-- The table is the rows of the 21 commands, whatever their operands. -/
theorem opcodeTable_eq_rows : opcodeTable =
    [Instr.rdreg 0, .tbArm, .tbIrqOn, .tbIrqOff, .gieOn, .gieOff, .millis, .elapsed 0, .tcmp 0 0, .adcSelect 0,
      .adcJustR, .adcJustL, .adcGo, .adcPoll, .adcResult, .adcResultHi, .adcOff, .pwmStart 0, .pwmEnable, .pwmDisable,
      .pwmStop].map Instr.row := by decide

theorem row_mem_opcodeTable (i : Instr) : i.row ∈ opcodeTable := by
  rw [opcodeTable_eq_rows, List.mem_map]
  cases i with
  | rdreg n => exact ⟨.rdreg 0, by decide, rfl⟩
  | elapsed a => exact ⟨.elapsed 0, by decide, rfl⟩
  | tcmp a d => exact ⟨.tcmp 0 0, by decide, rfl⟩
  | adcSelect ch => exact ⟨.adcSelect 0, by decide, rfl⟩
  | pwmStart f => exact ⟨.pwmStart 0, by decide, rfl⟩
  | _ => exact ⟨_, by decide, rfl⟩

/-- The bits of a field from bit `k` up, masked out, are 0 iff its number is below `2 ^ k`. -/
theorem and_highMask_eq_zero_iff (a : BitVec 32) {k : Nat} (hk : k ≤ 32) :
    a &&& (BitVec.allOnes 32 <<< k) = 0 ↔ a.toNat < 2 ^ k := by
  rw [← extractLsb'_high_eq_zero_iff (k := k) (m := 32 - k) a (by omega)]
  have hmask (j : Nat) : (a &&& (BitVec.allOnes 32 <<< k)).getLsbD j = (a.getLsbD j && decide (k ≤ j)) := by
    by_cases hj : j < 32
    · by_cases hkj : j < k
      · simp only [BitVec.getLsbD_and, BitVec.getLsbD_shiftLeft, hkj, decide_true, Bool.not_true, Bool.and_false,
          Bool.false_and, decide_eq_false (Nat.not_le_of_lt hkj)]
      · simp only [BitVec.getLsbD_and, BitVec.getLsbD_shiftLeft, hj, hkj, decide_true, decide_false, Bool.not_false,
          BitVec.getLsbD_allOnes, show j - k < 32 by omega, Bool.and_true, decide_eq_true (Nat.le_of_not_lt hkj)]
    · rw [BitVec.getLsbD_of_ge _ _ (by omega), BitVec.getLsbD_of_ge _ _ (by omega), Bool.false_and]
  constructor
  · intro h
    apply BitVec.eq_of_getLsbD_eq
    intro j hj
    have hbit := (hmask (k + j)).symm.trans (congrArg (fun v => v.getLsbD (k + j)) h)
    simpa [BitVec.getLsbD_extractLsb', hj] using hbit
  · intro h
    apply BitVec.eq_of_getLsbD_eq
    intro j hj
    rw [hmask]
    by_cases hkj : k ≤ j
    · have hbit := congrArg (fun v => v.getLsbD (j - k)) h
      simp only [BitVec.getLsbD_extractLsb', show k + (j - k) = j by omega, show j - k < 32 - k by omega] at hbit
      simpa [hkj] using hbit
    · simp [hkj]

theorem widthA_le (i : Instr) : i.widthA ≤ 32 := by cases i <;> simp [Instr.widthA]

theorem widthB_le (i : Instr) : i.widthB ≤ 32 := by cases i <;> simp [Instr.widthB]

/-- The register number stands in the low bits of `a`. -/
theorem extractLsb'_32_4 (w : CommandWord) : w.extractLsb' 32 4 = (cmdA w).extractLsb' 0 4 := by
  apply BitVec.eq_of_getLsbD_eq
  intro j hj
  simp [cmdA, hj, show j < 32 by omega]

/-- What a row asks of a word, over the three fields. -/
theorem accepts_row_iff (i : Instr) (w : CommandWord) :
    i.row.accepts w = true ↔ cmdOp w = i.opcode ∧ (cmdA w).toNat < 2 ^ i.widthA ∧ (cmdB w).toNat < 2 ^ i.widthB
      ∧ ∀ m ∈ i.maxRegister, (cmdA w).extractLsb' 0 4 ≤ m := by
  have hop : cmdOp w &&& 0xFF = cmdOp w := BitVec.and_allOnes
  have hmasked : w &&& i.row.mask =
      mkCommand (cmdOp w) (cmdA w &&& (BitVec.allOnes 32 <<< i.widthA)) (cmdB w &&& (BitVec.allOnes 32 <<< i.widthB)) := by
    conv_lhs => rw [← mkCommand_fields w]
    exact (mkCommand_and _ _ _ _ _ _).trans (by rw [hop])
  have hfields : w &&& i.row.mask = i.row.pattern ↔
      cmdOp w = i.opcode ∧ (cmdA w).toNat < 2 ^ i.widthA ∧ (cmdB w).toNat < 2 ^ i.widthB := by
    rw [hmasked, ← and_highMask_eq_zero_iff _ (widthA_le i), ← and_highMask_eq_zero_iff _ (widthB_le i)]
    exact mkCommand_inj
  rw [OpcodeRow.accepts, Bool.and_eq_true, beq_iff_eq, hfields, extractLsb'_32_4,
    show i.row.maxN = i.maxRegister from rfl]
  cases i.maxRegister <;> simp [and_assoc]

/-- The operands of a well-formed command use no reserved bit. -/
theorem operands_fit {i : Instr} (h : i.wellFormed = true) :
    i.operandA.toNat < 2 ^ i.widthA ∧ i.operandB.toNat < 2 ^ i.widthB
      ∧ ∀ m ∈ i.maxRegister, i.operandA.extractLsb' 0 4 ≤ m := by
  have hfield {k : Nat} (v : BitVec k) (hk : k ≤ 32) : (v.setWidth 32).toNat < 2 ^ k := by
    rw [BitVec.toNat_setWidth_of_le hk]; exact v.isLt
  have hzero : (0 : BitVec 32).toNat < 2 ^ 0 := by decide
  cases i with
  | rdreg n =>
    have hn : (n.setWidth 32).extractLsb' 0 4 = n := extractLsb'_setWidth_low n (by decide)
    refine ⟨hfield n (by decide), hzero, fun m hm => ?_⟩
    cases hm
    exact hn.symm ▸ of_decide_eq_true h
  | adcSelect ch => exact ⟨hfield ch (by decide), hzero, fun m hm => nomatch hm⟩
  | pwmStart f => exact ⟨hfield f (by decide), hzero, fun m hm => nomatch hm⟩
  | elapsed a => exact ⟨a.isLt, hzero, fun m hm => nomatch hm⟩
  | tcmp a d => exact ⟨a.isLt, d.isLt, fun m hm => nomatch hm⟩
  | _ => exact ⟨hzero, hzero, fun m hm => nomatch hm⟩

/-- A word that a row accepts is read as a command with the row's mnemonic. -/
theorem decode_of_accepts_row {j : Instr} {w : CommandWord} (h : j.row.accepts w = true) :
    ∃ i, decode w = .command i ∧ i.mnemonic = j.mnemonic := by
  obtain ⟨hop, ha, hb, hmax⟩ := (accepts_row_iff j w).1 h
  have hzero {v : BitVec 32} (hv : v.toNat < 2 ^ 0) : v = 0 := (eq_zero_iff_toNat v).2 (Nat.lt_one_iff.1 hv)
  have hhigh {v : BitVec 32} (k m : Nat) (hkm : 32 ≤ k + m) (hv : v.toNat < 2 ^ k) : v.extractLsb' k m = 0 :=
    (extractLsb'_high_eq_zero_iff v hkm).2 hv
  rw [decode, hop]
  cases j with
  | rdreg n => exact ⟨_, decodeR_eq_command.2 ⟨hhigh 4 28 (by decide) ha, hzero hb, hmax _ rfl, rfl⟩, rfl⟩
  | adcSelect ch => exact ⟨_, decodeC_eq_command.2 ⟨hhigh 8 24 (by decide) ha, hzero hb, rfl⟩, rfl⟩
  | pwmStart f => exact ⟨_, decodeF_eq_command.2 ⟨hhigh 16 16 (by decide) ha, hzero hb, rfl⟩, rfl⟩
  | elapsed a => exact ⟨_, decodeT1_eq_command.2 ⟨hzero hb, rfl⟩, rfl⟩
  | tcmp a d => exact ⟨_, rfl, rfl⟩
  | _ => exact ⟨_, decodeN_eq_command.2 ⟨hzero ha, hzero hb, rfl⟩, rfl⟩

/-- Settles O3: the table holds the row of every command, and each row accepts what is read as its mnemonic. -/
theorem decoderFollowsMaskAndMatchTable : Obligations.DecoderFollowsMaskAndMatchTable := by
  intro w m
  constructor
  · rintro ⟨r, hr, rfl, haccepts⟩
    rw [opcodeTable_eq_rows, List.mem_map] at hr
    obtain ⟨j, -, rfl⟩ := hr
    exact decode_of_accepts_row haccepts
  · rintro ⟨i, hi, rfl⟩
    obtain ⟨hwf, hop, ha, hb⟩ := fields_of_decodeFields hi
    refine ⟨i.row, row_mem_opcodeTable i, rfl, (accepts_row_iff i w).2 ⟨hop.symm, ?_⟩⟩
    rw [← ha, ← hb]
    exact operands_fit hwf

/-- Settles O5: the decoder evaluated on the eight words. -/
theorem sampleWordsDecodeAsTabled : Obligations.SampleWordsDecodeAsTabled := by
  refine ⟨?_, ?_, ?_, ?_, ?_, ?_, ?_, ?_⟩ <;> decide

/-- Settles O6: the step takes the word offered first, and the state has it taken again. -/
theorem stepRunsTheDecodedCommand : Obligations.StepRunsTheDecodedCommand := by
  refine ⟨fun s w rest i hs hd => (step_cons hs).trans (acceptCommand_command _ hd), fun s nbits w i hd => ?_⟩
  rw [State.withFetchWord, step_offerCommand]
  unfold decodeTableWord at hd
  split at hd
  next hw => cases hd; exact acceptCommand_command s hw
  next => cases hd

end Sys2Proof
end

section
/-! What a step leaves in the registers, said once: the effect of each command as a function of the state, the next
state of a step as one such effect with the ports rewritten, and each register and each control bit after a command and
after an agent's step. -/

namespace Sys2Proof

open Sys2Proof.Machine

/-! The response port and the offered events, which no register depends on. -/

/-- `s` with another response and other offered events. -/
def Machine.State.withPorts (s : State) (r : Option Response) (es : List Event) : State :=
  { s with rsp := r, events := es }

section
variable (s : State) (r : Option Response) (es : List Event)

@[simp] theorem withPorts_ticks : (s.withPorts r es).ticks = s.ticks := rfl
@[simp] theorem withPorts_tmr : (s.withPorts r es).tmr = s.tmr := rfl
@[simp] theorem withPorts_tbctl : (s.withPorts r es).tbctl = s.tbctl := rfl
@[simp] theorem withPorts_treload : (s.withPorts r es).treload = s.treload := rfl
@[simp] theorem withPorts_adctl : (s.withPorts r es).adctl = s.adctl := rfl
@[simp] theorem withPorts_adsamp : (s.withPorts r es).adsamp = s.adsamp := rfl
@[simp] theorem withPorts_pwmctl : (s.withPorts r es).pwmctl = s.pwmctl := rfl
@[simp] theorem withPorts_pwmper : (s.withPorts r es).pwmper = s.pwmper := rfl
@[simp] theorem withPorts_pwmduty : (s.withPorts r es).pwmduty = s.pwmduty := rfl
@[simp] theorem withPorts_pwmtmr : (s.withPorts r es).pwmtmr = s.pwmtmr := rfl
@[simp] theorem withPorts_cfg : (s.withPorts r es).cfg = s.cfg := rfl
@[simp] theorem withPorts_ton : (s.withPorts r es).ton = s.ton := rfl
@[simp] theorem withPorts_tie : (s.withPorts r es).tie = s.tie := rfl
@[simp] theorem withPorts_tif : (s.withPorts r es).tif = s.tif := rfl
@[simp] theorem withPorts_gie : (s.withPorts r es).gie = s.gie := rfl
@[simp] theorem withPorts_adOn : (s.withPorts r es).adOn = s.adOn := rfl
@[simp] theorem withPorts_adGo : (s.withPorts r es).adGo = s.adGo := rfl
@[simp] theorem withPorts_adFmt : (s.withPorts r es).adFmt = s.adFmt := rfl
@[simp] theorem withPorts_adChs : (s.withPorts r es).adChs = s.adChs := rfl
@[simp] theorem withPorts_pton : (s.withPorts r es).pton = s.pton := rfl
@[simp] theorem withPorts_ocen : (s.withPorts r es).ocen = s.ocen := rfl
@[simp] theorem withPorts_rsp : (s.withPorts r es).rsp = r := rfl
@[simp] theorem withPorts_events :
    (s.withPorts r es).events = es := rfl
@[simp] theorem enabled_withPorts (e : HwEvent) :
    e.enabled (s.withPorts r es) = e.enabled s := by cases e <;> rfl

end

/-! The effect of a command. -/

/-- The registers after `PWM_START f` (43_pwm R120). -/
def Machine.State.startWaveform (s : State) (f : BitVec 16) : State :=
  if f = 0 then s
  else
    (({ s with pwmper := BitVec.ofNat 8 (pwmPeriod s.cfg f.toNat)
               pwmduty := BitVec.ofNat 8 (pwmDutyOf (pwmPeriod s.cfg f.toNat)) } : State).putPton true).putOcen true

@[simp] theorem startWaveform_ticks (s : State) (f : BitVec 16) : (s.startWaveform f).ticks = s.ticks := by
  unfold Machine.State.startWaveform; split <;> rfl
@[simp] theorem startWaveform_tmr (s : State) (f : BitVec 16) : (s.startWaveform f).tmr = s.tmr := by
  unfold Machine.State.startWaveform; split <;> rfl
@[simp] theorem startWaveform_tbctl (s : State) (f : BitVec 16) : (s.startWaveform f).tbctl = s.tbctl := by
  unfold Machine.State.startWaveform; split <;> rfl
@[simp] theorem startWaveform_treload (s : State) (f : BitVec 16) : (s.startWaveform f).treload = s.treload := by
  unfold Machine.State.startWaveform; split <;> rfl
@[simp] theorem startWaveform_adctl (s : State) (f : BitVec 16) : (s.startWaveform f).adctl = s.adctl := by
  unfold Machine.State.startWaveform; split <;> rfl
@[simp] theorem startWaveform_adsamp (s : State) (f : BitVec 16) : (s.startWaveform f).adsamp = s.adsamp := by
  unfold Machine.State.startWaveform; split <;> rfl
@[simp] theorem startWaveform_pwmtmr (s : State) (f : BitVec 16) : (s.startWaveform f).pwmtmr = s.pwmtmr := by
  unfold Machine.State.startWaveform; split <;> rfl
@[simp] theorem startWaveform_rsp (s : State) (f : BitVec 16) : (s.startWaveform f).rsp = s.rsp := by
  unfold Machine.State.startWaveform; split <;> rfl
@[simp] theorem startWaveform_events (s : State) (f : BitVec 16) : (s.startWaveform f).events = s.events := by
  unfold Machine.State.startWaveform; split <;> rfl
@[simp] theorem startWaveform_cfg (s : State) (f : BitVec 16) : (s.startWaveform f).cfg = s.cfg := by
  unfold Machine.State.startWaveform; split <;> rfl
@[simp] theorem startWaveform_pwmctl (s : State) (f : BitVec 16) :
    (s.startWaveform f).pwmctl = if f = 0 then s.pwmctl else 0b11#2 := by
  unfold Machine.State.startWaveform
  split
  · rfl
  · exact putPton_putOcen_pwmctl _
@[simp] theorem startWaveform_pwmper (s : State) (f : BitVec 16) :
    (s.startWaveform f).pwmper = if f = 0 then s.pwmper else BitVec.ofNat 8 (pwmPeriod s.cfg f.toNat) := by
  unfold Machine.State.startWaveform; split <;> rfl
@[simp] theorem startWaveform_pwmduty (s : State) (f : BitVec 16) :
    (s.startWaveform f).pwmduty = if f = 0 then s.pwmduty else BitVec.ofNat 8 (pwmDutyOf (pwmPeriod s.cfg f.toNat)) := by
  unfold Machine.State.startWaveform; split <;> rfl
@[simp] theorem startWaveform_ton (s : State) (f : BitVec 16) : (s.startWaveform f).ton = s.ton := by
  simp [State.ton]
@[simp] theorem startWaveform_tie (s : State) (f : BitVec 16) : (s.startWaveform f).tie = s.tie := by
  simp [State.tie]
@[simp] theorem startWaveform_tif (s : State) (f : BitVec 16) : (s.startWaveform f).tif = s.tif := by
  simp [State.tif]
@[simp] theorem startWaveform_gie (s : State) (f : BitVec 16) : (s.startWaveform f).gie = s.gie := by
  simp [State.gie]
@[simp] theorem startWaveform_adOn (s : State) (f : BitVec 16) : (s.startWaveform f).adOn = s.adOn := by
  simp [State.adOn]
@[simp] theorem startWaveform_adGo (s : State) (f : BitVec 16) : (s.startWaveform f).adGo = s.adGo := by
  simp [State.adGo]
@[simp] theorem startWaveform_adFmt (s : State) (f : BitVec 16) : (s.startWaveform f).adFmt = s.adFmt := by
  simp [State.adFmt]
@[simp] theorem startWaveform_adChs (s : State) (f : BitVec 16) : (s.startWaveform f).adChs = s.adChs := by
  simp [State.adChs]
@[simp] theorem startWaveform_pton (s : State) (f : BitVec 16) :
    (s.startWaveform f).pton = (decide (f ≠ 0) || s.pton) := by
  simp only [State.pton, startWaveform_pwmctl]
  split <;> simp_all
@[simp] theorem startWaveform_ocen (s : State) (f : BitVec 16) :
    (s.startWaveform f).ocen = (decide (f ≠ 0) || s.ocen) := by
  simp only [State.ocen, startWaveform_pwmctl]
  split <;> simp_all

/-- The registers after a command: the seven reading commands leave them as they are (20_memory R43). -/
def Instr.effect : Instr → State → State
  | .tbArm, s => s.armTick
  | .tbIrqOn, s => s.putTie true
  | .tbIrqOff, s => s.putTie false
  | .gieOn, s => s.putGie true
  | .gieOff, s => s.putGie false
  | .adcSelect ch, s => (s.putAdChs ch).putAdOn true
  | .adcJustR, s => s.putAdFmt false
  | .adcJustL, s => s.putAdFmt true
  | .adcGo, s => s.putAdGo true
  | .adcOff, s => s.putAdOn false
  | .pwmStart f, s => s.startWaveform f
  | .pwmEnable, s => s.putOcen true
  | .pwmDisable, s => s.putOcen false
  | .pwmStop, s => (s.putOcen false).putPton false
  | .rdreg _, s | .millis, s | .elapsed _, s | .tcmp _ _, s | .adcPoll, s | .adcResult, s | .adcResultHi, s => s

/-- A register number up to 0xA reads something (10_state R28). -/
theorem readReg_isSome (s : State) {n : BitVec 4} (h : n ≤ 0xA#4) : ∃ v, readReg s n = some v := by
  have hn : n.toNat ≤ 0xA := h
  unfold readReg
  split
  case h_12 => simp only [imp_false] at *; omega
  all_goals exact ⟨_, rfl⟩

/-- A command's next state is its effect with a response, and a well-formed command's response is no error. -/
theorem exec_eq_effect (i : Instr) (s : State) :
    ∃ r, exec i s = .next ((i.effect s).withPorts (some r) s.events) ∧ (i.wellFormed = true → r.err = false) := by
  cases i with
  | rdreg n =>
    rw [exec_rdreg, execRdreg]
    cases hn : readReg s n with
    | some v => exact ⟨⟨false, v.setWidth 32⟩, rfl, fun _ => rfl⟩
    | none =>
      refine ⟨⟨true, 0⟩, rfl, fun hwf => ?_⟩
      obtain ⟨v, hv⟩ := readReg_isSome s (of_decide_eq_true hwf)
      rw [hn] at hv; cases hv
  | pwmStart f =>
    refine ⟨⟨false, 0⟩, ?_, fun _ => rfl⟩
    rw [exec_pwmStart, Instr.effect, Machine.State.startWaveform]
    by_cases hf : f = 0
    · rw [hf, execPwmStart_zero]; rfl
    · rw [execPwmStart_nonzero f s hf, if_neg hf]; rfl
  | _ => exact ⟨⟨false, _⟩, rfl, fun _ => rfl⟩

theorem effect_of_exec {i : Instr} {s t : State} (h : exec i s = .next t) : t = (i.effect s).withPorts t.rsp s.events := by
  obtain ⟨r, hr, -⟩ := exec_eq_effect i s
  rw [hr] at h; cases h; rfl

/-! One step. -/

/-- Everything one step can do to the registers: nothing; the effect of the command that runs; the effect of an agent's
step that is enabled. -/
theorem step_effect {s t : State} (h : step s = .next t) :
    (s.nextCommand = none ∧ s.nextAgent = none ∧ t = s.withPorts t.rsp s.events.tail)
    ∨ (∃ i, s.nextCommand = some i ∧ s.nextAgent = none ∧ t = (i.effect s).withPorts t.rsp s.events.tail)
    ∨ (∃ e, s.nextCommand = none ∧ s.nextAgent = some e ∧ e.enabled s = true
        ∧ t = (e.effect s).withPorts none s.events.tail) := by
  rcases step_cases h with ⟨he, hc, ha, rfl⟩ | ⟨w, rest, r, he, -, hc, ha, rfl⟩ | ⟨w, rest, i, u, he, -, hc, ha, hu, rfl⟩
    | ⟨e, rest, he, hen, hc, ha, rfl⟩ | ⟨e, rest, he, -, hc, ha, rfl⟩
  · exact .inl ⟨hc, ha, by rw [he, List.tail_nil, ← he]; rfl⟩
  · exact .inl ⟨hc, ha, by rw [he]; rfl⟩
  · refine .inr (.inl ⟨i, hc, ha, ?_⟩)
    rw [effect_of_exec hu, he]; rfl
  · exact .inr (.inr ⟨e, hc, ha, hen, by rw [he]; rfl⟩)
  · exact .inl ⟨hc, ha, by rw [he]; rfl⟩

/-- The next agent's step is the one offered first. -/
theorem nextAgent_eq_some_iff {s : State} {e : HwEvent} :
    s.nextAgent = some e ↔ ∃ rest, s.events = .hw e :: rest ∧ e.enabled s = true := by
  unfold State.nextAgent
  split
  · rename_i e' rest he
    rw [he]
    split
    · next hen =>
      exact ⟨fun h => Option.some.inj h ▸ ⟨rest, rfl, hen⟩, fun ⟨_, heq, _⟩ => by cases heq; rfl⟩
    · next hen => exact ⟨nofun, fun ⟨_, heq, hen'⟩ => by cases heq; exact absurd hen' hen⟩
  · next hne => exact ⟨nofun, fun ⟨rest, he, _⟩ => absurd he (hne e rest)⟩

/-- The next command is what the word offered first decodes to. -/
theorem nextCommand_eq_some_iff {s : State} {i : Instr} :
    s.nextCommand = some i ↔ ∃ w rest, s.events = .cmd w :: rest ∧ decode w = .command i := by
  unfold State.nextCommand
  split
  · rename_i w rest he; split <;> simp_all
  · next hne => exact ⟨nofun, fun ⟨w, rest, he, _⟩ => absurd he (hne w rest)⟩

/-! The registers after a command. -/

@[simp] theorem effect_ticks (i : Instr) (s : State) : (i.effect s).ticks = s.ticks := by
  cases i <;> simp [Instr.effect]
@[simp] theorem effect_treload (i : Instr) (s : State) : (i.effect s).treload = s.treload := by
  cases i <;> simp [Instr.effect]
@[simp] theorem effect_adsamp (i : Instr) (s : State) : (i.effect s).adsamp = s.adsamp := by
  cases i <;> simp [Instr.effect]
@[simp] theorem effect_pwmtmr (i : Instr) (s : State) : (i.effect s).pwmtmr = s.pwmtmr := by
  cases i <;> simp [Instr.effect]
@[simp] theorem effect_cfg (i : Instr) (s : State) : (i.effect s).cfg = s.cfg := by cases i <;> simp [Instr.effect]
@[simp] theorem effect_tmr (i : Instr) (s : State) : (i.effect s).tmr = if i = .tbArm then s.treload else s.tmr := by
  cases i <;> simp [Instr.effect]

/-! The control bits after a command. -/

/-- `PWM_START` with a non-zero frequency, the one command that starts the waveform. -/
def Instr.startsWaveform : Instr → Bool
  | .pwmStart f => decide (f ≠ 0)
  | _ => false

theorem startsWaveform_iff {i : Instr} : i.startsWaveform = true ↔ ∃ f, f ≠ 0 ∧ i = .pwmStart f := by
  cases i <;> simp [Instr.startsWaveform]

theorem effect_period_duty {i : Instr} (h : i.startsWaveform = false) (s : State) :
    (i.effect s).pwmper = s.pwmper ∧ (i.effect s).pwmduty = s.pwmduty := by
  cases i <;> simp_all [Instr.effect, Instr.startsWaveform]

/-- `ADC_SELECT`, of any channel. -/
def Instr.selectsChannel : Instr → Bool
  | .adcSelect _ => true
  | _ => false

theorem selectsChannel_iff {i : Instr} : i.selectsChannel = true ↔ ∃ ch, i = .adcSelect ch := by
  cases i <;> simp [Instr.selectsChannel]

@[simp] theorem putAdChs_tie (s : State) (ch : BitVec 8) : (s.putAdChs ch).tie = s.tie := rfl
@[simp] theorem putAdChs_tif (s : State) (ch : BitVec 8) : (s.putAdChs ch).tif = s.tif := rfl
@[simp] theorem putAdChs_gie (s : State) (ch : BitVec 8) : (s.putAdChs ch).gie = s.gie := rfl
@[simp] theorem putAdChs_pton (s : State) (ch : BitVec 8) : (s.putAdChs ch).pton = s.pton := rfl
@[simp] theorem putAdChs_ocen (s : State) (ch : BitVec 8) : (s.putAdChs ch).ocen = s.ocen := rfl

@[simp] theorem effect_ton (i : Instr) (s : State) : (i.effect s).ton = (decide (i = .tbArm) || s.ton) := by
  cases i <;> simp [Instr.effect]
@[simp] theorem effect_tie (i : Instr) (s : State) :
    (i.effect s).tie = (decide (i = .tbArm ∨ i = .tbIrqOn) || s.tie && decide (i ≠ .tbIrqOff)) := by
  cases i <;> simp [Instr.effect]
@[simp] theorem effect_tif (i : Instr) (s : State) : (i.effect s).tif = (s.tif && decide (i ≠ .tbArm)) := by
  cases i <;> simp [Instr.effect]
@[simp] theorem effect_gie (i : Instr) (s : State) :
    (i.effect s).gie = (decide (i = .gieOn) || s.gie && decide (i ≠ .gieOff)) := by
  cases i <;> simp [Instr.effect]
@[simp] theorem effect_pton (i : Instr) (s : State) :
    (i.effect s).pton = (i.startsWaveform || s.pton && decide (i ≠ .pwmStop)) := by
  cases i <;> simp [Instr.effect, Instr.startsWaveform]
@[simp] theorem effect_ocen (i : Instr) (s : State) :
    (i.effect s).ocen
      = (i.startsWaveform || decide (i = .pwmEnable) || s.ocen && decide (i ≠ .pwmDisable ∧ i ≠ .pwmStop)) := by
  cases i <;> simp [Instr.effect, Instr.startsWaveform]

@[simp] theorem effect_adOn (i : Instr) (s : State) :
    (i.effect s).adOn = (i.selectsChannel || s.adOn && decide (i ≠ .adcOff)) := by
  cases i <;> simp [Instr.effect, Instr.selectsChannel]
/-- GO and FMT are none of the channel's bits in a well-formed configuration (00_scope R5). -/
theorem effect_adGo {s : State} (h : s.cfg.WellFormed) (i : Instr) :
    (i.effect s).adGo = (decide (i = .adcGo) || s.adGo) := by
  cases i <;> simp [Instr.effect, putAdChs_adGo h]
theorem effect_adFmt {s : State} (h : s.cfg.WellFormed) (i : Instr) :
    (i.effect s).adFmt = (decide (i = .adcJustL) || s.adFmt && decide (i ≠ .adcJustR)) := by
  cases i <;> simp [Instr.effect, putAdChs_adFmt h]

/-- Writing ON, GO or FMT keeps the channel's bits. -/
theorem putAd_adChs {s : State} (h : s.cfg.WellFormed) (b : Bool) :
    (s.putAdOn b).adChs = s.adChs ∧ (s.putAdGo b).adChs = s.adChs ∧ (s.putAdFmt b).adChs = s.adChs :=
  putBit_and_mask h s.adctl b

theorem effect_adChs {s : State} (h : s.cfg.WellFormed) (i : Instr) :
    (i.effect s).adChs = match i with | .adcSelect ch => ch &&& s.cfg.adcChsMask | _ => s.adChs := by
  cases i with
  | adcSelect ch => exact (putAd_adChs (s := s.putAdChs ch) h true).1.trans (putAdChs_adChs s ch)
  | adcJustR | adcJustL => exact (putAd_adChs h _).2.2
  | adcGo => exact (putAd_adChs h _).2.1
  | adcOff => exact (putAd_adChs h _).1
  | pwmStart f => exact startWaveform_adChs s f
  | _ => rfl

theorem effect_adChs_of_not_select {s : State} (h : s.cfg.WellFormed) {i : Instr} (hi : i.selectsChannel = false) :
    (i.effect s).adChs = s.adChs := by
  rw [effect_adChs h]
  cases i with
  | adcSelect ch => cases hi
  | _ => rfl

/-! The registers and the control bits after an agent's step. -/

theorem isReset_iff {e : HwEvent} : e.isReset = true ↔ ∃ d, e = .reset d := by cases e <;> simp [HwEvent.isReset]

theorem isAdcDone_iff {e : HwEvent} : e.isAdcDone = true ↔ ∃ x, e = .adcDone x := by
  cases e <;> simp [HwEvent.isAdcDone]

theorem isTickIsr_iff {e : HwEvent} : e.isTickIsr = true ↔ e = .tickIsr := by cases e <;> simp [HwEvent.isTickIsr]

/-- Every register bit but a drawn channel is 0 after a reset (10_state R29). -/
theorem resetStep_tbctl_bits (s : State) (d : ResetDraw) :
    (s.resetStep d).ton = false ∧ (s.resetStep d).tie = false ∧ (s.resetStep d).tif = false
      ∧ (s.resetStep d).gie = false := by simp [State.ton, State.tie, State.tif, State.gie]

theorem resetStep_pwmctl_bits (s : State) (d : ResetDraw) :
    (s.resetStep d).pton = false ∧ (s.resetStep d).ocen = false := by simp [State.pton, State.ocen]

theorem resetStep_adctl_bits {s : State} (h : s.cfg.WellFormed) (d : ResetDraw) :
    (s.resetStep d).adOn = false ∧ (s.resetStep d).adGo = false ∧ (s.resetStep d).adFmt = false := by
  obtain ⟨hon, hgo, hfmt⟩ := mask_bits h
  simp only [State.adOn, State.adGo, State.adFmt, resetStep_adctl, BitVec.getLsbD_and, hon, hgo, hfmt, Bool.and_false,
    and_self]

@[simp] theorem agent_ton (e : HwEvent) (s : State) : (e.effect s).ton = (s.ton && !e.isReset) := by
  cases e <;> simp [HwEvent.effect, HwEvent.isReset, resetStep_tbctl_bits]
@[simp] theorem agent_tie (e : HwEvent) (s : State) : (e.effect s).tie = (s.tie && !e.isReset) := by
  cases e <;> simp [HwEvent.effect, HwEvent.isReset, resetStep_tbctl_bits]
@[simp] theorem agent_gie (e : HwEvent) (s : State) : (e.effect s).gie = (s.gie && !e.isReset) := by
  cases e <;> simp [HwEvent.effect, HwEvent.isReset, resetStep_tbctl_bits]
@[simp] theorem agent_tif (e : HwEvent) (s : State) :
    (e.effect s).tif = (decide (e = .tmrCount ∧ s.tmr = 2 ^ s.cfg.tmrW - 1)
      || s.tif && decide (e ≠ .tickIsr) && !e.isReset) := by
  cases e <;> simp [HwEvent.effect, HwEvent.isReset, resetStep_tbctl_bits]
@[simp] theorem agent_pton (e : HwEvent) (s : State) : (e.effect s).pton = (s.pton && !e.isReset) := by
  cases e <;> simp [HwEvent.effect, HwEvent.isReset, resetStep_pwmctl_bits]
@[simp] theorem agent_ocen (e : HwEvent) (s : State) : (e.effect s).ocen = (s.ocen && !e.isReset) := by
  cases e <;> simp [HwEvent.effect, HwEvent.isReset, resetStep_pwmctl_bits]
theorem agent_adOn {s : State} (h : s.cfg.WellFormed) (e : HwEvent) : (e.effect s).adOn = (s.adOn && !e.isReset) := by
  cases e <;> simp [HwEvent.effect, HwEvent.isReset, resetStep_adctl_bits h]
theorem agent_adFmt {s : State} (h : s.cfg.WellFormed) (e : HwEvent) : (e.effect s).adFmt = (s.adFmt && !e.isReset) := by
  cases e <;> simp [HwEvent.effect, HwEvent.isReset, resetStep_adctl_bits h]
theorem agent_adGo {s : State} (h : s.cfg.WellFormed) (e : HwEvent) :
    (e.effect s).adGo = (s.adGo && !e.isAdcDone && !e.isReset) := by
  cases e <;> simp [HwEvent.effect, HwEvent.isReset, HwEvent.isAdcDone, resetStep_adctl_bits h]
theorem agent_adChs {s : State} (h : s.cfg.WellFormed) {e : HwEvent} (he : e.isReset = false) :
    (e.effect s).adChs = s.adChs := by
  cases e with
  | adcDone x => exact (putAd_adChs (s := { s with adsamp := x }) h false).2.1
  | reset d => cases he
  | _ => simp [State.adChs, HwEvent.effect]

@[simp] theorem agent_cfg (e : HwEvent) (s : State) : (e.effect s).cfg = s.cfg := by
  cases e <;> simp [HwEvent.effect]
/-- What each agent's step does to the registers it may write (20_memory R47). -/
theorem agent_ticks {e : HwEvent} (he : e.isReset = false) (s : State) :
    (e.effect s).ticks = if e = .tickIsr then s.ticks + 1 else s.ticks := by
  cases e <;> simp_all [HwEvent.effect, HwEvent.isReset]
theorem agent_tmr {e : HwEvent} (he : e.isReset = false) (s : State) :
    (e.effect s).tmr = if e = .tmrCount then s.tmrCountStep.tmr else if e = .tickIsr then s.treload else s.tmr := by
  cases e <;> simp_all [HwEvent.effect, HwEvent.isReset]
theorem agent_treload {e : HwEvent} (he : e.isReset = false) (s : State) : (e.effect s).treload = s.treload := by
  cases e <;> simp_all [HwEvent.effect, HwEvent.isReset]
theorem agent_adsamp {e : HwEvent} (he : e.isReset = false) (s : State) :
    (e.effect s).adsamp = match e with | .adcDone x => x | _ => s.adsamp := by
  cases e with
  | reset d => cases he
  | _ => simp [HwEvent.effect]
theorem agent_pwmper {e : HwEvent} (he : e.isReset = false) (s : State) : (e.effect s).pwmper = s.pwmper := by
  cases e <;> simp_all [HwEvent.effect, HwEvent.isReset]
theorem agent_pwmduty {e : HwEvent} (he : e.isReset = false) (s : State) : (e.effect s).pwmduty = s.pwmduty := by
  cases e <;> simp_all [HwEvent.effect, HwEvent.isReset]
theorem agent_pwmtmr {e : HwEvent} (he : e.isReset = false) (s : State) :
    (e.effect s).pwmtmr = if e = .pwmCount then s.pwmCountStep.pwmtmr else s.pwmtmr := by
  cases e <;> simp_all [HwEvent.effect, HwEvent.isReset]

end Sys2Proof
end

section
/-! Rules of every step (spec/10_state.md section 11, spec/20_memory.md R46 and R47, spec/70_reset_and_hazards.md R227):
what a step keeps and answers, who may write a register, who may set and clear a control bit, and that the three units do
not interfere. Each follows from what a step does to the registers. -/

namespace Sys2Proof

open Sys2Proof.Machine

/-! The frame of a step. -/

theorem step_frame {s t : State} (h : step s = .next t) : t.events = s.events.tail ∧ t.cfg = s.cfg := by
  rcases step_effect h with ⟨-, -, ht⟩ | ⟨i, -, -, ht⟩ | ⟨e, -, -, -, ht⟩ <;> rw [ht] <;> simp

theorem exists_step (s : State) : ∃ t, step s = .next t := by
  cases he : s.events with
  | nil => exact ⟨_, step_nil he⟩
  | cons e rest =>
    obtain ⟨t, ht, -⟩ := takeEvent_spec e { s with events := rest }
    exact ⟨t, (step_cons he).trans ht⟩

/-- Settles O9: every event answers a next state, and no step writes the configuration. -/
theorem blockNeverHalts : Obligations.BlockNeverHalts := fun s =>
  let ⟨t, ht⟩ := exists_step s
  ⟨t, ht, step_frame ht⟩

/-- What the command word offered first answers. -/
theorem acceptCommand_answers (w : CommandWord) (s : State) :
    ∃ t r, acceptCommand w s = .next t ∧ t.rsp = some r ∧ t.events = s.events
      ∧ (r.err = true ↔ ∃ q, decode w = .illegal q) ∧ (r.err = true → r.data = 0) := by
  cases hd : decode w with
  | illegal q => exact ⟨_, _, acceptCommand_illegal s hd, rfl, rfl, by simp⟩
  | command i =>
    obtain ⟨r, hr, herr⟩ := exec_eq_effect i s
    have hok := herr (wellFormed_of_decode hd)
    exact ⟨_, r, (acceptCommand_command s hd).trans hr, rfl, rfl, by simp [hok]⟩

/-- Settles O8: the step that accepts a command answers it, and an agent's step or an idle one answers nothing. -/
theorem everyCommandIsAnsweredInItsStep : Obligations.EveryCommandIsAnsweredInItsStep := by
  refine ⟨fun s w rest hs => ?_, fun s t h => ?_⟩
  · obtain ⟨t, r, ht, hr, he, hrest⟩ := acceptCommand_answers w { s with events := rest }
    exact ⟨t, r, (step_cons hs).trans ht, hr, he, hrest⟩
  · cases hs : s.events with
    | nil => rw [step_nil hs] at h; cases h; simp
    | cons e rest =>
      rw [step_cons hs] at h
      cases e with
      | cmd w =>
        obtain ⟨u, r, hu, hr, -⟩ := acceptCommand_answers w { s with events := rest }
        rw [takeEvent, hu] at h; cases h
        simp [hr]
      | hw e => cases h; simp [(hardwareStep_spec e _).1]

/-! Writers of the registers and of the control bits. -/

theorem resetsNext_of_isReset {s : State} {e : HwEvent} (ha : s.nextAgent = some e) (he : e.isReset = true) :
    s.resetsNext :=
  let ⟨d, hd⟩ := isReset_iff.1 he
  ⟨d, hd ▸ ha⟩

/-- In a step that is no reset, neither is the agent's event it takes. -/
theorem isReset_of_nextAgent {s : State} {e : HwEvent} (hr : ¬ s.resetsNext) (ha : s.nextAgent = some e) :
    e.isReset = false := by
  exact Bool.not_eq_true _ ▸ fun he => hr (resetsNext_of_isReset ha he)

/-- Settles O32: a reset may write any register; the effect of any other step names what it writes. -/
theorem eachRegisterHasOnlyItsWriters : Obligations.EachRegisterHasOnlyItsWriters := by
  intro s t h
  by_cases hr : s.resetsNext
  · simp [hr]
  rcases step_effect h with ⟨-, -, ht⟩ | ⟨i, hc, -, ht⟩ | ⟨e, -, ha, -, ht⟩ <;> rw [ht]
  · simp
  · refine ⟨by simp, fun htmr => ?_, by simp, by simp, fun hwave => .inl ?_, by simp⟩
    · simp only [withPorts_tmr, effect_tmr] at htmr
      grind
    · cases hs : i.startsWaveform with
      | true => obtain ⟨f, hf, rfl⟩ := startsWaveform_iff.1 hs; exact ⟨f, hf, hc⟩
      | false => simp [effect_period_duty hs] at hwave
  · have he := isReset_of_nextAgent hr ha
    simp only [withPorts_ticks, withPorts_tmr, withPorts_treload, withPorts_adsamp, withPorts_pwmper, withPorts_pwmduty,
      withPorts_pwmtmr, agent_ticks he, agent_tmr he, agent_treload he, agent_adsamp he, agent_pwmper he,
      agent_pwmduty he, agent_pwmtmr he, ha]
    cases e <;> simp

/-- Who sets and clears the bits of TBCTL (10_state R16). -/
theorem tbctl_writers {s t : State} (h : step s = .next t) :
    (s.ton = false → t.ton = true → s.nextCommand = some .tbArm)
    ∧ (s.ton = true → t.ton = false → s.resetsNext)
    ∧ (s.tie = false → t.tie = true → s.nextCommand = some .tbArm ∨ s.nextCommand = some .tbIrqOn)
    ∧ (s.tie = true → t.tie = false → s.nextCommand = some .tbIrqOff ∨ s.resetsNext)
    ∧ (s.tif = false → t.tif = true → s.nextAgent = some .tmrCount ∧ s.tmr = 2 ^ s.cfg.tmrW - 1)
    ∧ (s.tif = true → t.tif = false → s.nextAgent = some .tickIsr ∨ s.nextCommand = some .tbArm ∨ s.resetsNext)
    ∧ (s.gie = false → t.gie = true → s.nextCommand = some .gieOn)
    ∧ (s.gie = true → t.gie = false → s.nextCommand = some .gieOff ∨ s.resetsNext) := by
  rcases step_effect h with ⟨-, -, ht⟩ | ⟨i, hc, -, ht⟩ | ⟨e, -, ha, -, ht⟩ <;> rw [ht]
  · simp +contextual
  · simp +contextual [hc]
  · have hreset : e.isReset = true → s.resetsNext := resetsNext_of_isReset ha
    simp only [withPorts_ton, withPorts_tie, withPorts_tif, withPorts_gie, agent_ton, agent_tie, agent_tif, agent_gie, ha]
    grind

/-- Who sets and clears the bits of ADCTL (10_state R17), in a well-formed configuration. -/
theorem adctl_writers {s t : State} (hwf : s.cfg.WellFormed) (h : step s = .next t) :
    (s.adOn = false → t.adOn = true → ∃ ch, s.nextCommand = some (.adcSelect ch))
    ∧ (s.adOn = true → t.adOn = false → s.nextCommand = some .adcOff ∨ s.resetsNext)
    ∧ (s.adGo = false → t.adGo = true → s.nextCommand = some .adcGo)
    ∧ (s.adGo = true → t.adGo = false → (∃ x, s.nextAgent = some (.adcDone x)) ∨ s.resetsNext)
    ∧ (s.adFmt = false → t.adFmt = true → s.nextCommand = some .adcJustL)
    ∧ (s.adFmt = true → t.adFmt = false → s.nextCommand = some .adcJustR ∨ s.resetsNext)
    ∧ (t.adChs ≠ s.adChs → (∃ ch, s.nextCommand = some (.adcSelect ch)) ∨ s.resetsNext) := by
  rcases step_effect h with ⟨-, -, ht⟩ | ⟨i, hc, -, ht⟩ | ⟨e, -, ha, -, ht⟩ <;> rw [ht]
  · simp +contextual
  · have hselect : i.selectsChannel = true → ∃ ch, s.nextCommand = some (.adcSelect ch) :=
      fun hs => let ⟨ch, hi⟩ := selectsChannel_iff.1 hs; ⟨ch, hi ▸ hc⟩
    have hchs : i.selectsChannel = false → (i.effect s).adChs = s.adChs :=
      effect_adChs_of_not_select hwf
    simp only [withPorts_adOn, withPorts_adGo, withPorts_adFmt, withPorts_adChs, effect_adOn, effect_adGo hwf,
      effect_adFmt hwf, hc]
    grind
  · have hreset : e.isReset = true → s.resetsNext := resetsNext_of_isReset ha
    have hdone : e.isAdcDone = true → ∃ x, s.nextAgent = some (.adcDone x) :=
      fun hd => let ⟨x, hx⟩ := isAdcDone_iff.1 hd; ⟨x, hx ▸ ha⟩
    have hchs := agent_adChs hwf (e := e)
    simp only [withPorts_adOn, withPorts_adGo, withPorts_adFmt, withPorts_adChs, agent_adOn hwf, agent_adGo hwf,
      agent_adFmt hwf]
    grind

/-- Who sets and clears the bits of PWMCTL (10_state R19). -/
theorem pwmctl_writers {s t : State} (h : step s = .next t) :
    (s.pton = false → t.pton = true → ∃ f, f ≠ 0 ∧ s.nextCommand = some (.pwmStart f))
    ∧ (s.pton = true → t.pton = false → s.nextCommand = some .pwmStop ∨ s.resetsNext)
    ∧ (s.ocen = false → t.ocen = true →
        (∃ f, f ≠ 0 ∧ s.nextCommand = some (.pwmStart f)) ∨ s.nextCommand = some .pwmEnable)
    ∧ (s.ocen = true → t.ocen = false →
        s.nextCommand = some .pwmDisable ∨ s.nextCommand = some .pwmStop ∨ s.resetsNext) := by
  rcases step_effect h with ⟨-, -, ht⟩ | ⟨i, hc, -, ht⟩ | ⟨e, -, ha, -, ht⟩ <;> rw [ht]
  · simp +contextual
  · have hstart : i.startsWaveform = true → ∃ f, f ≠ 0 ∧ s.nextCommand = some (.pwmStart f) :=
      fun hs => let ⟨f, hf, hi⟩ := startsWaveform_iff.1 hs; ⟨f, hf, hi ▸ hc⟩
    simp only [withPorts_pton, withPorts_ocen, effect_pton, effect_ocen, hc]
    grind
  · have hreset : e.isReset = true → s.resetsNext := resetsNext_of_isReset ha
    simp only [withPorts_pton, withPorts_ocen, agent_pton, agent_ocen]
    grind

/-- Settles O33: the three control registers, bit by bit. -/
theorem controlBitsChangeOnlyAsTabled : Obligations.ControlBitsChangeOnlyAsTabled := by
  intro s t hwf h
  obtain ⟨hton, hton', htie, htie', htif, htif', hgie, hgie'⟩ := tbctl_writers h
  obtain ⟨hon, hon', hgo, hgo', hfmt, hfmt', hchs⟩ := adctl_writers hwf h
  exact ⟨hton, hton', htie, htie', htif, htif', hgie, hgie', hon, hon', hgo, hgo', hfmt, hfmt', hchs, pwmctl_writers h⟩

/-! The invariant. -/

/-- The bits of ADCTL outside ON, GO, FMT and the channel mask (10_state R17). -/
def unusedAdctlBits (c : Config) : BitVec 8 := ~~~(0x83#8 ||| c.adcChsMask)

theorem inv_iff (s : State) :
    s.Inv ↔ s.cfg.WellFormed ∧ s.tmr < 2 ^ s.cfg.tmrW ∧ s.treload = s.cfg.tickReload
      ∧ s.adctl &&& unusedAdctlBits s.cfg = 0#8 := Iff.rfl

/-- ON, GO and FMT are none of the unused bits. -/
theorem putBit_and_unused (c : Config) (v : BitVec 8) (b : Bool) {i : Nat} (hi : (0x83#8).getLsbD i = true) :
    putBit v i b &&& unusedAdctlBits c = v &&& unusedAdctlBits c := by
  apply BitVec.eq_of_getLsbD_eq
  intro j hj
  simp only [BitVec.getLsbD_and, getLsbD_putBit]
  split
  · rename_i hji
    rw [hji.1, unusedAdctlBits, BitVec.getLsbD_not, BitVec.getLsbD_or, hi]; simp
  · rfl

/-- Neither are the channel's. -/
theorem putAdChs_and_unused (s : State) (ch : BitVec 8) :
    (s.putAdChs ch).adctl &&& unusedAdctlBits s.cfg = s.adctl &&& unusedAdctlBits s.cfg := by
  simp only [State.putAdChs, unusedAdctlBits]
  ext j hj
  simp only [BitVec.getElem_and, BitVec.getElem_or, BitVec.getElem_not]
  cases s.cfg.adcChsMask[j] <;> simp

theorem effect_adctl_and_unused (i : Instr) (s : State) :
    (i.effect s).adctl &&& unusedAdctlBits s.cfg = s.adctl &&& unusedAdctlBits s.cfg := by
  have hput := putBit_and_unused s.cfg
  cases i with
  | adcSelect ch => exact (hput _ true (i := 0) rfl).trans (putAdChs_and_unused s ch)
  | adcJustR | adcJustL => exact hput _ _ (i := 7) rfl
  | adcGo => exact hput _ _ (i := 1) rfl
  | adcOff => exact hput _ _ (i := 0) rfl
  | _ => simp [Instr.effect]

theorem effect_inv {s : State} (h : s.Inv) (i : Instr) : (i.effect s).Inv := by
  obtain ⟨hwf, htmr, hreload, hadctl⟩ := (inv_iff s).1 h
  have hfits : s.cfg.tickReload < 2 ^ s.cfg.tmrW := hwf.2.1
  refine (inv_iff _).2 ⟨by rwa [effect_cfg], ?_, by rwa [effect_treload, effect_cfg], ?_⟩
  · rw [effect_tmr, effect_cfg]; split <;> omega
  · rwa [effect_cfg, effect_adctl_and_unused]

/-- From every state, a reset in a well-formed configuration leaves a state that meets the invariant. -/
theorem resetStep_inv {s : State} (h : s.cfg.WellFormed) (d : ResetDraw) : (s.resetStep d).Inv := by
  refine (inv_iff _).2 ⟨h, Nat.mod_lt _ (Nat.two_pow_pos _), rfl, ?_⟩
  rw [resetStep_adctl, resetStep_cfg, unusedAdctlBits]
  ext j hj
  simp only [BitVec.getElem_and, BitVec.getElem_or, BitVec.getElem_not]
  cases s.cfg.adcChsMask[j] <;> simp

theorem agent_inv {s : State} (h : s.Inv) (e : HwEvent) : (e.effect s).Inv := by
  obtain ⟨hwf, htmr, hreload, hadctl⟩ := (inv_iff s).1 h
  have hfits : s.cfg.tickReload < 2 ^ s.cfg.tmrW := hwf.2.1
  cases e with
  | tmrCount =>
    refine (inv_iff _).2 ⟨by simpa [HwEvent.effect] using hwf, ?_, by simpa [HwEvent.effect], by simpa [HwEvent.effect]⟩
    simp only [HwEvent.effect, tmrCountStep_tmr, tmrCountStep_cfg]
    split <;> omega
  | tickIsr => exact ⟨hwf, by simp only [HwEvent.effect, takeTickInterrupt_tmr, takeTickInterrupt_cfg]; omega, hreload, hadctl⟩
  | adcDone x => exact ⟨hwf, htmr, hreload, (putBit_and_unused s.cfg s.adctl false (i := 1) rfl).trans hadctl⟩
  | pwmCount =>
    exact (inv_iff _).2 ⟨by simpa [HwEvent.effect] using hwf, by simpa [HwEvent.effect], by simpa [HwEvent.effect],
      by simpa [HwEvent.effect]⟩
  | reset d => exact resetStep_inv hwf d

theorem withPorts_inv {s : State} (r : Option Response) (es : List Event) : (s.withPorts r es).Inv ↔ s.Inv := Iff.rfl

/-- Settles O31: a command loads TMR from TRELOAD at most and rewrites tabled bits of ADCTL; an agent's step counts TMR
within its width, reloads it, or resets. -/
theorem everyStepKeepsTheInvariant : Obligations.EveryStepKeepsTheInvariant := by
  intro s t h hst
  rcases step_effect hst with ⟨-, -, ht⟩ | ⟨i, -, -, ht⟩ | ⟨e, -, -, -, ht⟩ <;> rw [ht, withPorts_inv]
  · exact h
  · exact effect_inv h i
  · exact agent_inv h e

/-- Settles O29: power-on is a reset, which meets the invariant. -/
theorem powerOnRefusesIllFormedConfigurations : Obligations.PowerOnRefusesIllFormedConfigurations := by
  refine ⟨fun c d es hwf => if_neg hwf, fun c d es hwf => ⟨_, if_pos hwf, resetStep_inv hwf d, rfl, rfl, rfl, rfl, rfl,
    rfl, resetStep_adctl_bits (s := { State.reset with cfg := c, events := es }) hwf d⟩⟩

theorem fOsc_mk (w r f p : Nat) (m : BitVec 8) (d t : Nat) : (Config.mk w r f p m d t).fOsc = f := rfl

theorem platform_fOsc :
    Config.platform.fOsc = 4 * (Config.openPrescaleLessOne + 1) * 65535 + Config.openFOscExcess := fOsc_mk 8 _ _ _ _ _ _

/-- The configuration of the reset state is well-formed, whatever its OPEN parameters are (Log 3). -/
theorem platform_wellFormed : Config.platform.WellFormed := by
  have hprescale : Config.platform.pwmPrescale = Config.openPrescaleLessOne + 1 := rfl
  have hone : 1 ≤ Config.platform.fOsc := by rw [platform_fOsc]; omega
  have hosc : 4 * Config.platform.pwmPrescale * 65535 ≤ Config.platform.fOsc := by
    rw [platform_fOsc, hprescale]; exact Nat.le_add_right _ _
  exact ⟨by decide, Config.openTickReload.isLt, ⟨Nat.succ_pos _, hone⟩, hosc, by decide, Config.openDelayMsInnerUs.isLt⟩

/-- Settles O30: the registers are 0 and TRELOAD is the constant. -/
theorem resetStateMeetsTheInvariant : Obligations.ResetStateMeetsTheInvariant := by
  refine ⟨⟨platform_wellFormed, Nat.two_pow_pos _, rfl, BitVec.zero_and⟩, ?_⟩
  simp [State.reset, State.adOn, State.adGo, State.adFmt, State.pwmOut, State.ocen]

/-! Noninterference. -/

/-- What one offered event does to the registers. -/
def Machine.Event.effect : Event → State → State
  | .cmd w, s => match decode w with | .command i => i.effect s | .illegal _ => s
  | .hw e, s => hardwareStep e s

theorem effect_of_takeEvent {e : Event} {s t : State} (h : takeEvent e s = .next t) :
    t = (e.effect s).withPorts t.rsp s.events := by
  cases e with
  | hw e => cases h; rw [← (hardwareStep_spec e s).2.1]; rfl
  | cmd w =>
    rw [takeEvent] at h
    cases hd : decode w with
    | command i => rw [acceptCommand_command s hd] at h; rw [Machine.Event.effect, hd]; exact effect_of_exec h
    | illegal r => rw [acceptCommand_illegal s hd] at h; cases h; rw [Machine.Event.effect, hd]; rfl

/-- The registers after a step: the effect of the event offered first, or none. -/
def Machine.State.nextEffect (s : State) : State :=
  match s.events with
  | [] => s
  | e :: rest => e.effect { s with events := rest }

theorem step_eq_effect {s t : State} (h : step s = .next t) : t = s.nextEffect.withPorts t.rsp s.events.tail := by
  unfold Machine.State.nextEffect
  split
  next he => rw [step_nil he] at h; cases h; rw [he, List.tail_nil, ← he]; rfl
  next e rest he => rw [step_cons he] at h; rw [he]; exact effect_of_takeEvent h

/-- The registers of each unit. -/
def Machine.State.timebase (s : State) : BitVec 32 × Nat × BitVec 4 × Nat := (s.ticks, s.tmr, s.tbctl, s.treload)
def Machine.State.sampler (s : State) : BitVec 8 × BitVec 10 := (s.adctl, s.adsamp)
def Machine.State.generator (s : State) : BitVec 2 × BitVec 8 × BitVec 8 × BitVec 8 :=
  (s.pwmctl, s.pwmper, s.pwmduty, s.pwmtmr)

theorem sameTimebase_iff {s t : State} : SameTimebase s t ↔ s.timebase = t.timebase := by
  simp [SameTimebase, Machine.State.timebase]
theorem sameSampler_iff {s t : State} : SameSampler s t ↔ s.sampler = t.sampler := by
  simp [SameSampler, Machine.State.sampler]
theorem sameGenerator_iff {s t : State} : SameGenerator s t ↔ s.generator = t.generator := by
  simp [SameGenerator, Machine.State.generator]

/-- A command writes a unit's registers from that unit's registers and the configuration. -/
theorem effect_timebase {s s' : State} (h : s.timebase = s'.timebase) (i : Instr) :
    (i.effect s).timebase = (i.effect s').timebase := by
  obtain ⟨hticks, htmr, htbctl, hreload⟩ := sameTimebase_iff.2 h
  cases i <;> simp [Machine.State.timebase, Instr.effect, hticks, htmr, htbctl, hreload]

theorem effect_sampler {s s' : State} (hcfg : s.cfg = s'.cfg) (h : s.sampler = s'.sampler) (i : Instr) :
    (i.effect s).sampler = (i.effect s').sampler := by
  obtain ⟨hadctl, hadsamp⟩ := sameSampler_iff.2 h
  cases i <;> simp [Machine.State.sampler, Instr.effect, hcfg, hadctl, hadsamp]

theorem effect_generator {s s' : State} (hcfg : s.cfg = s'.cfg) (h : s.generator = s'.generator) (i : Instr) :
    (i.effect s).generator = (i.effect s').generator := by
  obtain ⟨hctl, hper, hduty, htmr⟩ := sameGenerator_iff.2 h
  cases i <;> simp [Machine.State.generator, Instr.effect, hcfg, hctl, hper, hduty, htmr]

/-- An agent's step, offered in two states that enable it alike. -/
theorem hardwareStep_congr {α : Type} {f : State → α} {e : HwEvent} {s s' : State} (hen : e.enabled s = e.enabled s')
    (hidle : f s.rspIdle = f s'.rspIdle) (heffect : f (e.effect s.rspIdle) = f (e.effect s'.rspIdle)) :
    f (hardwareStep e s) = f (hardwareStep e s') := by
  unfold hardwareStep
  rw [hen]
  split
  · exact heffect
  · exact hidle

/-- An agent's step that leaves what `f` sees, whether or not it is enabled. -/
theorem hardwareStep_frame {α : Type} {f : State → α} {e : HwEvent} {s : State} (hidle : f s.rspIdle = f s)
    (heffect : f (e.effect s.rspIdle) = f s) : f (hardwareStep e s) = f s := by
  unfold hardwareStep
  split
  · exact heffect
  · exact hidle

theorem hardwareStep_timebase {s s' : State} (hcfg : s.cfg = s'.cfg) (h : s.timebase = s'.timebase) (e : HwEvent) :
    (hardwareStep e s).timebase = (hardwareStep e s').timebase := by
  obtain ⟨hticks, htmr, htbctl, hreload⟩ := sameTimebase_iff.2 h
  cases e with
  | adcDone | pwmCount =>
    rw [hardwareStep_frame (f := State.timebase) (s := s), hardwareStep_frame (f := State.timebase) (s := s'), h] <;>
      simp [Machine.State.timebase, HwEvent.effect]
  | tmrCount =>
    refine hardwareStep_congr (by simp [HwEvent.enabled, State.ton, htbctl]) h ?_
    by_cases htop : s'.tmr = 2 ^ s'.cfg.tmrW - 1 <;>
      simp [Machine.State.timebase, HwEvent.effect, hcfg, hticks, htmr, htbctl, hreload, htop]
  | tickIsr | reset =>
    apply hardwareStep_congr <;>
      simp [Machine.State.timebase, HwEvent.effect, HwEvent.enabled, State.tif, State.tie, State.gie, hcfg, hticks, htmr,
        htbctl, hreload]

theorem hardwareStep_sampler {s s' : State} (hcfg : s.cfg = s'.cfg) (h : s.sampler = s'.sampler) (e : HwEvent) :
    (hardwareStep e s).sampler = (hardwareStep e s').sampler := by
  obtain ⟨hadctl, hadsamp⟩ := sameSampler_iff.2 h
  cases e with
  | tmrCount | tickIsr | pwmCount =>
    rw [hardwareStep_frame (f := State.sampler) (s := s), hardwareStep_frame (f := State.sampler) (s := s'), h] <;>
      simp [Machine.State.sampler, HwEvent.effect]
  | _ =>
    apply hardwareStep_congr <;>
      simp [Machine.State.sampler, HwEvent.effect, HwEvent.enabled, State.adOn, State.adGo, hcfg, hadctl, hadsamp]

theorem hardwareStep_generator {s s' : State} (h : s.generator = s'.generator) (e : HwEvent) :
    (hardwareStep e s).generator = (hardwareStep e s').generator := by
  obtain ⟨hctl, hper, hduty, htmr⟩ := sameGenerator_iff.2 h
  cases e with
  | tmrCount | tickIsr | adcDone =>
    rw [hardwareStep_frame (f := State.generator) (s := s), hardwareStep_frame (f := State.generator) (s := s'), h] <;>
      simp [Machine.State.generator, HwEvent.effect]
  | pwmCount =>
    refine hardwareStep_congr (by simp [HwEvent.enabled, State.pton, hctl]) h ?_
    by_cases hend : s'.pwmper ≤ s'.pwmtmr <;>
      simp [Machine.State.generator, HwEvent.effect, hctl, hper, hduty, htmr, hend]
  | reset => apply hardwareStep_congr <;> simp [Machine.State.generator, HwEvent.effect, HwEvent.enabled, hctl, hper, hduty, htmr]

/-- Two runs under the same configuration and offered events: what `f` sees at the end depends on what it sees at the
start, where that is so of every command and of every agent's step. -/
theorem reaches_congr {α : Type} {f : State → α} (hports : ∀ s r es, f (s.withPorts r es) = f s)
    (heffect : ∀ (s s' : State) (i : Instr), s.cfg = s'.cfg → f s = f s' → f (i.effect s) = f (i.effect s'))
    (hagent : ∀ (s s' : State) (e : HwEvent), s.cfg = s'.cfg → f s = f s' → f (hardwareStep e s) = f (hardwareStep e s')) :
    ∀ {n : Nat} {s s' t t' : State}, s.events = s'.events → s.cfg = s'.cfg → Reaches n s t → Reaches n s' t' →
      f s = f s' → f t = f t'
  | 0, s, s', t, t', _, _, h, h', hf => by rw [← reaches_zero.1 h, ← reaches_zero.1 h', hf]
  | n + 1, s, s', t, t', hes, hcfg, h, h', hf => by
    obtain ⟨u, hu, hrun⟩ := reaches_succ.1 h
    obtain ⟨u', hu', hrun'⟩ := reaches_succ.1 h'
    have hevents : u.events = u'.events := by rw [(step_frame hu).1, (step_frame hu').1, hes]
    have hconfig : u.cfg = u'.cfg := by rw [(step_frame hu).2, (step_frame hu').2, hcfg]
    refine reaches_congr hports heffect hagent hevents hconfig hrun hrun' ?_
    rw [step_eq_effect hu, step_eq_effect hu', hports, hports]
    unfold Machine.State.nextEffect
    rw [← hes]
    cases he : s.events with
    | nil => exact hf
    | cons e rest =>
      have hf' : f (s.withPorts s.rsp rest) = f (s'.withPorts s'.rsp rest) := by rw [hports, hports, hf]
      cases e with
      | hw e => exact hagent (s.withPorts s.rsp rest) (s'.withPorts s'.rsp rest) e hcfg hf'
      | cmd w =>
        simp only [Machine.Event.effect]
        cases decode w with
        | command i => exact heffect (s.withPorts s.rsp rest) (s'.withPorts s'.rsp rest) i hcfg hf'
        | illegal r => exact hf'

/-- Settles O34, unit by unit. -/
theorem unitsDoNotInterfere : Obligations.UnitsDoNotInterfere := by
  intro n s s' t t' hes hcfg h h'
  simp only [sameTimebase_iff, sameSampler_iff, sameGenerator_iff]
  exact ⟨reaches_congr (fun _ _ _ => rfl) (fun _ _ i _ hf => effect_timebase hf i)
      (fun _ _ e hc hf => hardwareStep_timebase hc hf e) hes hcfg h h',
    reaches_congr (fun _ _ _ => rfl) (fun _ _ i hc hf => effect_sampler hc hf i)
      (fun _ _ e hc hf => hardwareStep_sampler hc hf e) hes hcfg h h',
    reaches_congr (fun _ _ _ => rfl) (fun _ _ i hc hf => effect_generator hc hf i)
      (fun _ _ e _ hf => hardwareStep_generator hf e) hes hcfg h h'⟩

end Sys2Proof
end

section
/-! The steps of the agents (spec/60_exceptions.md R184 to R186, spec/42_adc.md R108, spec/43_pwm.md R128,
spec/70_reset_and_hazards.md R210) and the reading and one-bit commands as whole next states. An offered agent's step is
its effect where it is enabled; its enabling condition is read off its control register as a mask. -/

namespace Sys2Proof

open Sys2Proof.Machine

/-! The agents. -/

/-- The step that takes an offered agent's step: its effect where it is enabled, else it is dropped (Log 7). -/
theorem step_hw_enabled {s : State} {e : HwEvent} {rest : List Event} (h : s.events = .hw e :: rest)
    (hen : e.enabled s = true) : step s = .next ((e.effect s).withPorts none rest) := by
  rw [step_cons h, takeEvent, hardwareStep_enabled (by simpa using hen), effect_offer]
  rfl

theorem step_hw_disabled {s : State} {e : HwEvent} {rest : List Event} (h : s.events = .hw e :: rest)
    (hen : e.enabled s = false) : step s = .next (s.withPorts none rest) := by
  rw [step_cons h, takeEvent, hardwareStep_disabled (by simpa using hen)]
  rfl

/-- TON, and PTON, read through its mask. -/
theorem tbctl_and_ton_eq_zero_iff (s : State) : s.tbctl &&& 0b0001#4 = 0 ↔ s.ton = false := by
  have hmask : s.tbctl &&& 0b0001#4 = if s.ton then 0b0001#4 else 0#4 := BitVec.and_twoPow s.tbctl 0
  rw [hmask]
  cases s.ton <;> simp

theorem pwmctl_and_pton_eq_zero_iff (s : State) : s.pwmctl &&& 0b01#2 = 0 ↔ s.pton = false := by
  have hmask : s.pwmctl &&& 0b01#2 = if s.pton then 0b01#2 else 0#2 := BitVec.and_twoPow s.pwmctl 0
  rw [hmask]
  cases s.pton <;> simp

/-- The enabling conditions of the handler and of a conversion as masks (60_exceptions R185, 42_adc R108). -/
theorem tbctl_and_irq_iff (s : State) :
    s.tbctl &&& 0b1110#4 = 0b1110#4 ↔ HwEvent.tickIsr.enabled s = true := by
  rw [enabled_tickIsr]
  simp only [State.tif, State.tie, State.gie]
  generalize s.tbctl = v
  revert v
  decide

theorem adctl_and_convert_iff (s : State) (x : BitVec 10) :
    s.adctl &&& 0x03#8 = 0x03#8 ↔ (HwEvent.adcDone x).enabled s = true := by
  simp only [HwEvent.enabled, State.adOn, State.adGo]
  generalize s.adctl = v
  revert v
  decide

/-- Settles O24: TON enables the step; at the top TMR wraps and TIF is set. -/
theorem tmrCountCountsAndOverflows : Obligations.TmrCountCountsAndOverflows := by
  intro s rest hs
  cases hton : s.ton with
  | false => rw [step_hw_disabled hs hton, if_pos ((tbctl_and_ton_eq_zero_iff s).2 hton)]; rfl
  | true =>
    rw [step_hw_enabled hs hton, if_neg (by rw [tbctl_and_ton_eq_zero_iff, hton]; decide), HwEvent.effect,
      State.tmrCountStep]
    split <;> rfl

/-- Settles O25: the handler's three writes, with the counter as a number. -/
theorem tickIsrTakesThePendingTick : Obligations.TickIsrTakesThePendingTick := by
  intro s rest hs
  have hticks : BitVec.ofNat 32 ((s.ticks.toNat + 1) % 2 ^ 32) = s.ticks + 1 := by
    apply BitVec.eq_of_toNat_eq; simp
  rw [hticks]
  cases hen : HwEvent.tickIsr.enabled s with
  | false => rw [step_hw_disabled hs hen, if_neg (by rw [tbctl_and_irq_iff, hen]; decide)]; rfl
  | true => rw [step_hw_enabled hs hen, if_pos ((tbctl_and_irq_iff s).2 hen)]; rfl

/-- Settles O26: the draw is stored and GO cleared. -/
theorem adcDoneStoresTheDrawnSample : Obligations.AdcDoneStoresTheDrawnSample := by
  intro s x rest hs
  cases hen : (HwEvent.adcDone x).enabled s with
  | false => rw [step_hw_disabled hs hen, if_neg (by rw [adctl_and_convert_iff s x, hen]; decide)]; rfl
  | true => rw [step_hw_enabled hs hen, if_pos ((adctl_and_convert_iff s x).2 hen)]; rfl

/-- Settles O27: PTON enables the step, which counts to the period. -/
theorem pwmCountCountsToThePeriod : Obligations.PwmCountCountsToThePeriod := by
  refine ⟨fun s rest hs => ?_, fun s t i h => by rw [effect_of_exec h]; simp, pwmOut_iff⟩
  cases hpton : s.pton with
  | false => rw [step_hw_disabled hs hpton, if_pos ((pwmctl_and_pton_eq_zero_iff s).2 hpton)]; rfl
  | true =>
    have hnext : BitVec.ofNat 8 (s.pwmtmr.toNat + 1) = s.pwmtmr + 1 := by apply BitVec.eq_of_toNat_eq; simp
    rw [step_hw_enabled hs hpton, if_neg (by rw [pwmctl_and_pton_eq_zero_iff, hpton]; decide), HwEvent.effect,
      State.pwmCountStep, hnext]
    by_cases hend : s.pwmper ≤ s.pwmtmr
    · rw [if_pos hend, if_pos (show s.pwmtmr.toNat ≥ s.pwmper.toNat from hend)]; rfl
    · rw [if_neg hend, if_neg (show ¬ s.pwmtmr.toNat ≥ s.pwmper.toNat from hend)]; rfl

/-- Settles O28: a reset is always enabled. -/
theorem resetLeavesTheTabledValues : Obligations.ResetLeavesTheTabledValues := by
  intro s d rest hs
  have hout : (s.resetStep d).pwmOut = false := pwmOut_of_not_ocen (resetStep_pwmctl_bits s d).2
  exact ⟨_, step_hw_enabled hs rfl, rfl, rfl, rfl, rfl, rfl, rfl, rfl, rfl, rfl, rfl, hout, rfl, rfl, rfl⟩

/-! The reading and the one-bit commands. -/

/-- Settles O10: a reading command has no effect, and what it answers does not depend on the response before it. -/
theorem readingCommandsHaveNoSideEffect : Obligations.ReadingCommandsHaveNoSideEffect := by
  intro s t i hi h
  have hread : i.effect s = s := by
    rcases hi with ⟨n, rfl⟩ | rfl | ⟨a, rfl⟩ | ⟨a, d, rfl⟩ | rfl | rfl | rfl <;> rfl
  have ht : t = { s with rsp := t.rsp } := by
    have ht := effect_of_exec h
    rw [hread] at ht
    exact ht
  exact ⟨ht, by rw [ht, exec_withRsp]⟩

/-- Settles O13: register number 0 is the counter. -/
theorem millisReadsTheCounter : Obligations.MillisReadsTheCounter :=
  ⟨fun s => congrArg Host.Outcome.next (respond_eq s s.ticks), fun _ => rfl, wordsOf_plainWords fun _ _ => rfl⟩

/-- Settles O18: writing the one bit evaluates to its mask. -/
theorem adcGoAndOffWriteTheirBit : Obligations.AdcGoAndOffWriteTheirBit := by
  refine ⟨fun s => ⟨rfl, rfl⟩, fun s t x h => ?_, fun s t x h => ?_, wordsOf_plainWords fun _ _ => rfl,
    wordsOf_plainWords fun _ _ => rfl⟩
  · cases h; simp [HwEvent.enabled]
  · cases h; simp [HwEvent.enabled]

/-- GO read through its mask (10_state R17). -/
theorem adctl_and_go_eq_zero_iff (s : State) : s.adctl &&& 0x02#8 = 0 ↔ s.adGo = false := by
  have hmask : s.adctl &&& 0x02#8 = if s.adGo then 0x02#8 else 0#8 := BitVec.and_twoPow s.adctl 1
  rw [hmask]
  cases s.adGo <;> simp

/-- Settles O19: the answer is GO. -/
theorem adcPollReadsTheTriggerBit : Obligations.AdcPollReadsTheTriggerBit := by
  refine ⟨fun s => ?_, wordsOf_plainWords fun _ _ => rfl⟩
  rw [exec_adcPoll, respond_ofBool]
  simp only [adctl_and_go_eq_zero_iff]
  cases s.adGo <;> rfl

/-- Settles O45: ADRES as a number in each alignment, and the sample's width. -/
theorem alignedViewKeepsItsRange : Obligations.AlignedViewKeepsItsRange := by
  intro s
  have hwidth := s.adsamp.isLt
  refine ⟨fun hfmt => ?_, fun hfmt => ?_⟩
  · have hadres := adres_toNat_of_right hfmt; omega
  · have hadres := adres_toNat_of_left hfmt; omega

end Sys2Proof
end

section
/-! Runs (spec/10_state.md R13, spec/20_memory.md R48, spec/70_reset_and_hazards.md R211 and R214, spec/42_adc.md R107
and R110). A predicate that every step keeps holds along a run; what a step keeps under a run's conditions on its events
follows from the writers of each register and bit. -/

namespace Sys2Proof

open Sys2Proof.Machine

/-! One step of a run. -/

/-- The events a run of `n + 1` steps takes: the next step's, then those of the run after it. -/
theorem take_events_succ {n : Nat} {s u : State} (hu : step s = .next u) {e : Event} (he : e ∈ u.events.take n) :
    e ∈ s.events.take (n + 1) := by
  rw [(step_frame hu).1] at he
  cases hs : s.events with
  | nil => simp [hs] at he
  | cons e' rest => rw [List.take_succ_cons]; exact List.mem_cons_of_mem _ (by simpa [hs] using he)

theorem noReset_succ {n : Nat} {s u : State} (h : s.noReset (n + 1)) (hu : step s = .next u) :
    ¬ s.resetsNext ∧ u.noReset n := by
  refine ⟨?_, fun e he => h e (take_events_succ hu he)⟩
  rintro ⟨d, hd⟩
  obtain ⟨rest, hs, -⟩ := nextAgent_eq_some_iff.1 hd
  exact Bool.noConfusion (h (.hw (.reset d)) (by simp [hs]))

theorem noCommand_succ {p : Instr → Bool} {n : Nat} {s u : State} (h : s.noCommand p (n + 1)) (hu : step s = .next u) :
    (∀ i, s.nextCommand = some i → p i = false) ∧ u.noCommand p n := by
  refine ⟨fun i hi => ?_, fun w i hw => h w i (take_events_succ hu hw)⟩
  obtain ⟨w, rest, hs, hd⟩ := nextCommand_eq_some_iff.1 hi
  exact h w i (by simp [hs]) hd

/-- What every step keeps that is no reset and runs no command that `p` picks out, holds along a run of such steps. -/
theorem reaches_keeps {P : State → Prop} {p : Instr → Bool}
    (hstep : ∀ s t : State, P s → step s = .next t → ¬ s.resetsNext → (∀ i, s.nextCommand = some i → p i = false) → P t) :
    ∀ {n : Nat} {s t : State}, Reaches n s t → s.noReset n → s.noCommand p n → P s → P t
  | 0, _, _, h, _, _, hs => reaches_zero.1 h ▸ hs
  | _ + 1, _, _, h, hreset, hcmd, hs => by
    obtain ⟨u, hu, hrun⟩ := reaches_succ.1 h
    obtain ⟨hr, hreset'⟩ := noReset_succ hreset hu
    obtain ⟨hc, hcmd'⟩ := noCommand_succ hcmd hu
    exact reaches_keeps hstep hrun hreset' hcmd' (hstep _ u hs hu hr hc)

/-- The condition on commands that picks out none. -/
theorem noCommand_none (n : Nat) (s : State) : s.noCommand (fun _ => false) n := fun _ _ _ _ => rfl

theorem reaches_add {m n : Nat} {s t : State} : Reaches (m + n) s t ↔ ∃ u, Reaches m s u ∧ Reaches n u t := by
  induction m generalizing s with
  | zero => simp
  | succ m ih =>
    rw [Nat.add_right_comm, reaches_succ]
    simp only [ih, reaches_succ]
    tauto

theorem reaches_one {s t : State} : Reaches 1 s t ↔ step s = .next t := by simp [reaches_succ]

theorem countTaken_succ {p : HwEvent → Bool} {n : Nat} {s u : State} (hu : step s = .next u) :
    countTaken p (n + 1) s = (if s.stepTaken p then 1 else 0) + countTaken p n u := by simp [countTaken, hu]

/-! The counter. -/

/-- A handler step adds 1 to TICKS, and no other step but a reset changes it (20_memory R47). -/
theorem step_ticks {s t : State} (h : step s = .next t) (hr : ¬ s.resetsNext) :
    t.ticks = if s.stepTaken HwEvent.isTickIsr then s.ticks + 1 else s.ticks := by
  unfold State.stepTaken
  rcases step_effect h with ⟨-, ha, ht⟩ | ⟨i, -, ha, ht⟩ | ⟨e, -, ha, -, ht⟩ <;> rw [ht, ha]
  · simp
  · simp
  · rw [withPorts_ticks, agent_ticks (isReset_of_nextAgent hr ha)]
    simp [isTickIsr_iff]

/-- TICKS along a run without a reset (10_state R13). -/
theorem reaches_ticks : ∀ {n : Nat} {s t : State}, Reaches n s t → s.noReset n →
    t.ticks = s.ticks + BitVec.ofNat 32 (countTaken HwEvent.isTickIsr n s)
  | 0, s, t, h, _ => by rw [← reaches_zero.1 h, countTaken]; simp
  | n + 1, s, t, h, hreset => by
    obtain ⟨u, hu, hrun⟩ := reaches_succ.1 h
    obtain ⟨hr, hreset'⟩ := noReset_succ hreset hu
    rw [reaches_ticks hrun hreset', step_ticks hu hr, countTaken_succ hu, BitVec.ofNat_add, ← BitVec.add_assoc]
    split <;> simp

/-- Settles O35: the count of the run, read by `MILLIS` and by `ELAPSED`. -/
theorem counterAdvancesByHandlerSteps : Obligations.CounterAdvancesByHandlerSteps := by
  intro n s t h hreset
  have hticks := reaches_ticks h hreset
  refine ⟨hticks, ?_, ?_⟩
  · rw [exec_millis, respond_eq, hticks, BitVec.ofNat_add, BitVec.ofNat_toNat, BitVec.setWidth_eq]
  · rw [exec_elapsed, respond_eq, elapsedTicks, hticks, BitVec.add_comm, BitVec.add_sub_cancel]

/-- A masked handler takes no step (60_exceptions R185). -/
theorem not_tickIsr_of_masked {s : State} (h : s.tie = false ∨ s.gie = false) : s.stepTaken HwEvent.isTickIsr = false := by
  rw [State.stepTaken, Bool.eq_false_iff]
  intro hany
  obtain ⟨e, he, hisr⟩ := (Option.any_eq_true _ _).1 hany
  obtain ⟨-, -, hen⟩ := nextAgent_eq_some_iff.1 he
  rw [isTickIsr_iff.1 hisr, enabled_tickIsr] at hen
  grind

/-- Settles O36: the mask bit stays 0 without its commands, and while it is 0 the handler does not run. -/
theorem maskedBracketHoldsTheCounter : Obligations.MaskedBracketHoldsTheCounter := by
  intro n s t h hreset
  refine ⟨fun htie hcmd => ?_, fun hgie hcmd => ?_⟩
  · refine reaches_keeps (P := fun u => u.ticks = s.ticks ∧ u.tie = false) ?_ h hreset hcmd ⟨rfl, htie⟩
    rintro u v ⟨hticks, hu⟩ hv hr hc
    obtain ⟨-, -, hset, -⟩ := tbctl_writers hv
    refine ⟨by rw [step_ticks hv hr, not_tickIsr_of_masked (.inl hu), if_neg Bool.false_ne_true, hticks], ?_⟩
    grind
  · refine reaches_keeps (P := fun u => u.ticks = s.ticks ∧ u.gie = false) ?_ h hreset hcmd ⟨rfl, hgie⟩
    rintro u v ⟨hticks, hu⟩ hv hr hc
    obtain ⟨-, -, -, -, -, -, hset, -⟩ := tbctl_writers hv
    refine ⟨by rw [step_ticks hv hr, not_tickIsr_of_masked (.inr hu), if_neg Bool.false_ne_true, hticks], ?_⟩
    grind

/-! Booting. -/

/-- Only a reset clears TON. -/
theorem reaches_ton {n : Nat} {s t : State} (h : Reaches n s t) (hreset : s.noReset n) (hton : s.ton = true) :
    t.ton = true := by
  refine reaches_keeps (P := fun u => u.ton = true) ?_ h hreset (noCommand_none n s) hton
  intro u v hu hv hr _
  obtain ⟨-, hclear, -⟩ := tbctl_writers hv
  grind

/-- Only `TB_IRQ_OFF`, `GIE_OFF` and a reset mask the handler. -/
theorem reaches_unmasked {n : Nat} {s t : State} (h : Reaches n s t) (hreset : s.noReset n)
    (hcmd : s.noCommand (fun i => i == .tbIrqOff || i == .gieOff) n) (hs : s.Unmasked) : t.Unmasked := by
  refine reaches_keeps (P := State.Unmasked) ?_ h hreset hcmd hs
  rintro u v ⟨htie, hgie⟩ hv hr hc
  obtain ⟨-, -, -, htie', -, -, -, hgie'⟩ := tbctl_writers hv
  constructor <;> grind

/-- A step that runs a legal word. -/
theorem step_cmd {s : State} {w : CommandWord} {i : Instr} {rest : List Event} (hs : s.events = .cmd w :: rest)
    (hd : decode w = .command i) : ∃ r, step s = .next ((i.effect s).withPorts r rest) := by
  obtain ⟨u, hu, hr⟩ := exec_offer i s rest
  refine ⟨u.rsp, ?_⟩
  rw [step_cons hs, takeEvent, acceptCommand_command _ hd, hr, effect_of_exec hu]
  rfl

/-- Settles O39: the three steps, and what keeps TON and the two masks. -/
theorem bootSequenceBoots : Obligations.BootSequenceBoots := by
  intro s d rest osc hosc hs
  have hreset := step_hw_enabled hs (e := .reset d) rfl
  obtain ⟨r₁, harm⟩ := step_cmd (s := ((HwEvent.reset d).effect s).withPorts none _) rfl
    (show decode 0x100000000000000000 = .command .tbArm by decide)
  obtain ⟨r₂, hgie⟩ := step_cmd (s := (Instr.tbArm.effect (((HwEvent.reset d).effect s).withPorts none _)).withPorts r₁ _) rfl
    (show decode 0x130000000000000000 = .command .gieOn by decide)
  refine ⟨_, reaches_succ.2 ⟨_, hreset, reaches_succ.2 ⟨_, harm, reaches_one.2 hgie⟩⟩, ⟨by simp, hosc⟩, ⟨by simp, by simp⟩,
    by simp [HwEvent.effect], by simp [HwEvent.effect], rfl, ?_⟩
  intro n u hrun hnoreset
  exact ⟨⟨reaches_ton hrun hnoreset (by simp), hosc⟩,
    fun hcmd => reaches_unmasked hrun hnoreset hcmd ⟨by simp, by simp⟩⟩

/-! The block after a reset. -/

/-- No agent but a reset is enabled, and no response stands (70_reset_and_hazards R211). -/
def Quiescent (s : State) : Prop := s.rsp = none ∧ ∀ e : HwEvent, e.isReset = false → e.enabled s = false

theorem resetStep_quiescent {s : State} (h : s.cfg.WellFormed) (d : ResetDraw) : Quiescent (s.resetStep d) := by
  obtain ⟨hton, htie, htif, hgie⟩ := resetStep_tbctl_bits s d
  obtain ⟨hpton, hocen⟩ := resetStep_pwmctl_bits s d
  obtain ⟨hon, hgo, hfmt⟩ := resetStep_adctl_bits h d
  refine ⟨rfl, fun e he => ?_⟩
  cases e with
  | reset d => cases he
  | _ => simp [HwEvent.enabled, *]

/-- Along offered steps that are not enabled nothing is written. -/
theorem quiescent_run {n : Nat} {s t : State} (hq : Quiescent s)
    (hevents : ∀ e ∈ s.events.take n, ∃ h : HwEvent, e = .hw h ∧ h.isReset = false) (hrun : Reaches n s t) :
    t = s.withPorts none (s.events.drop n) := by
  induction n generalizing s with
  | zero => rw [← reaches_zero.1 hrun, List.drop_zero, ← hq.1]; rfl
  | succ n ih =>
    obtain ⟨u, hu, hrun'⟩ := reaches_succ.1 hrun
    have hu' : u = s.withPorts none s.events.tail := by
      cases hs : s.events with
      | nil => rw [step_nil hs] at hu; cases hu; rw [List.tail_nil, ← hs]; rfl
      | cons e rest =>
        obtain ⟨h, rfl, hh⟩ := hevents e (by simp [hs])
        rw [step_hw_disabled hs (hq.2 h hh)] at hu
        cases hu; rfl
    subst hu'
    rw [ih ⟨rfl, fun e he => by rw [enabled_withPorts]; exact hq.2 e he⟩
      (fun e he => hevents e (take_events_succ hu he)) hrun']
    simp only [withPorts_events, List.drop_tail]
    rfl

/-- Settles O40: the reset leaves a quiescent block, and the steps offered after it are dropped. -/
theorem blockIsQuiescentAfterReset : Obligations.BlockIsQuiescentAfterReset := by
  intro n s t d rest hwf hs hevents hrun
  obtain ⟨u, hu, hrun'⟩ := reaches_succ.1 hrun
  rw [step_hw_enabled hs (e := .reset d) rfl] at hu
  cases hu
  have hq : Quiescent (((HwEvent.reset d).effect s).withPorts none rest) :=
    ⟨rfl, fun e he => by rw [enabled_withPorts]; exact (resetStep_quiescent hwf d).2 e he⟩
  exact quiescent_run hq hevents hrun'

end Sys2Proof
end

section
/-! The tick period (spec/60_exceptions.md R184, R191). Along offered counts the timer goes from its reload to its top and
wraps; nothing else of the timebase moves but TIF, which stays set once it is. -/

namespace Sys2Proof

open Sys2Proof.Machine

/-- What `TMR_COUNT` does not write of the timebase, and that it does not clear TIF. -/
structure CountsFrom (s t : State) : Prop where
  ticks : t.ticks = s.ticks
  treload : t.treload = s.treload
  ton : t.ton = s.ton
  tie : t.tie = s.tie
  gie : t.gie = s.gie
  tif : s.tif = true → t.tif = true
  cfg : t.cfg = s.cfg

theorem CountsFrom.trans {s t u : State} (h : CountsFrom s t) (h' : CountsFrom t u) : CountsFrom s u :=
  ⟨h'.ticks.trans h.ticks, h'.treload.trans h.treload, h'.ton.trans h.ton, h'.tie.trans h.tie, h'.gie.trans h.gie,
    fun hs => h'.tif (h.tif hs), h'.cfg.trans h.cfg⟩

/-- One offered count with the timer on. -/
theorem step_tmrCount {s : State} {rest : List Event} (hton : s.ton = true) (hs : s.events = .hw .tmrCount :: rest) :
    ∃ t, step s = .next t ∧ t.events = rest ∧ CountsFrom s t
      ∧ t.tmr = (if s.tmr = 2 ^ s.cfg.tmrW - 1 then 0 else s.tmr + 1)
      ∧ t.tif = (decide (s.tmr = 2 ^ s.cfg.tmrW - 1) || s.tif) := by
  refine ⟨_, step_hw_enabled hs hton, rfl, ?_, tmrCountStep_tmr s, tmrCountStep_tif s⟩
  constructor <;> simp +contextual [HwEvent.effect]

/-- `k` counts: below the top TMR counts up and TIF is kept; on reaching `2 ^ TMR_W` it is 0 and a tick is pending. -/
theorem reaches_counts {k : Nat} {s : State} {rest : List Event} (hton : s.ton = true) (hfits : s.tmr < 2 ^ s.cfg.tmrW)
    (hs : s.events = List.replicate k (.hw .tmrCount) ++ rest) :
    ∃ t, Reaches k s t ∧ t.events = rest ∧ CountsFrom s t
      ∧ (s.tmr + k < 2 ^ s.cfg.tmrW → t.tmr = s.tmr + k ∧ t.tif = s.tif)
      ∧ (s.tmr + k = 2 ^ s.cfg.tmrW → t.tmr = 0 ∧ t.tif = true) := by
  induction k generalizing s with
  | zero =>
    exact ⟨s, reaches_zero.2 rfl, hs, ⟨rfl, rfl, rfl, rfl, rfl, id, rfl⟩, fun _ => ⟨rfl, rfl⟩, fun h => by omega⟩
  | succ k ih =>
    obtain ⟨u, hu, hevents, hframe, htmr, htif⟩ := step_tmrCount hton hs
    have hpow : 0 < 2 ^ s.cfg.tmrW := Nat.two_pow_pos _
    have hfits' : u.tmr < 2 ^ u.cfg.tmrW := by rw [htmr, hframe.cfg]; split <;> omega
    obtain ⟨t, hrun, ht, hframe', hbelow, htop⟩ := ih (hframe.ton.trans hton) hfits' hevents
    refine ⟨t, reaches_succ.2 ⟨u, hu, hrun⟩, ht, hframe.trans hframe', ?_, ?_⟩
    all_goals
      intro hk
      rw [hframe.cfg] at hbelow htop
    · have hnot : ¬ s.tmr = 2 ^ s.cfg.tmrW - 1 := by omega
      rw [if_neg hnot] at htmr
      obtain ⟨h1, h2⟩ := hbelow (by omega)
      exact ⟨by omega, by rw [h2, htif, decide_eq_false hnot, Bool.false_or]⟩
    · by_cases hlast : s.tmr = 2 ^ s.cfg.tmrW - 1
      · obtain rfl : k = 0 := by omega
        obtain rfl := reaches_zero.1 hrun
        exact ⟨by rw [htmr, if_pos hlast], by simp [htif, hlast]⟩
      · rw [if_neg hlast] at htmr
        exact htop (by omega)

/-- Settles O37: a fresh reload is `N0` counts below `2 ^ TMR_W`. -/
theorem tickPeriodIsItsReloadDistance : Obligations.TickPeriodIsItsReloadDistance := by
  intro s k rest hinv hton htif hfresh _ hs
  obtain ⟨hwf, htmr, hreload, -⟩ := hinv
  obtain ⟨t, hrun, hevents, hframe, hbelow, htop⟩ := reaches_counts hton htmr hs
  rw [hfresh, hreload] at htmr hbelow htop
  refine ⟨t, hrun, hframe.ticks, hevents, fun hk => ?_, fun hk => ?_⟩
  · obtain ⟨h1, h2⟩ := hbelow (by omega)
    exact ⟨h2.trans htif, h1⟩
  · obtain ⟨h1, h2⟩ := htop (by omega)
    exact ⟨h2, h1⟩

/-- One offered handler step, with a pending tick and the interrupt unmasked. -/
theorem step_tickIsr {s : State} {rest : List Event} (hs : s.events = .hw .tickIsr :: rest) (htif : s.tif = true)
    (htie : s.tie = true) (hgie : s.gie = true) :
    ∃ t, step s = .next t ∧ t.ticks = s.ticks + 1 ∧ t.tmr = s.treload ∧ t.tif = false ∧ t.events = rest := by
  have hen : HwEvent.tickIsr.enabled s = true := by rw [enabled_tickIsr, htif, htie, hgie]; rfl
  exact ⟨_, step_hw_enabled hs hen, rfl, rfl, takeTickInterrupt_tif s, rfl⟩

/-- Settles O38: the first `N0` counts make the tick pending, the others leave it so, and the handler takes it once. -/
theorem lateHandlerCountsOneTick : Obligations.LateHandlerCountsOneTick := by
  intro s L rest hinv hton htie hgie _ hfresh hs
  obtain ⟨-, htmr, hreload, -⟩ := hinv
  rw [List.replicate_add, List.append_assoc] at hs
  obtain ⟨u, hrun, hevents, hframe, -, htop⟩ := reaches_counts hton htmr hs
  obtain ⟨hzero, hpending⟩ := htop (by omega)
  have hfits : u.tmr < 2 ^ u.cfg.tmrW := by rw [hzero]; exact Nat.two_pow_pos _
  obtain ⟨v, hrun', hevents', hframe', -⟩ := reaches_counts (hframe.ton.trans hton) hfits hevents
  have hall := hframe.trans hframe'
  obtain ⟨t, ht, hticks, htmr', htif', hrest⟩ :=
    step_tickIsr hevents' (hframe'.tif hpending) (hall.tie.trans htie) (hall.gie.trans hgie)
  refine ⟨t, reaches_add.2 ⟨v, reaches_add.2 ⟨u, hrun, hrun'⟩, reaches_one.2 ht⟩, ?_, ?_, htif', hrest⟩
  · rw [hticks, hall.ticks]
  · rw [htmr', hall.treload]

end Sys2Proof
end

section
/-! Infinite executions (spec/60_exceptions.md R193). What one moment of an execution does is the effect of its event; an
agent that stays enabled occurs, by its fairness, and its occurrence is the effect of its step. -/

namespace Sys2Proof

open Sys2Proof.Machine

/-- One moment of an execution. -/
theorem execution_moves (x : Execution) (n : Nat) :
    ∃ r es, x.state (n + 1) = ((x.event n).effect (x.state n)).withPorts r es :=
  ⟨_, _, effect_of_takeEvent (x.moves n)⟩

/-- The moment at which an agent's step occurs. -/
theorem execution_occurs {x : Execution} {n : Nat} {e : HwEvent} (he : x.event n = .hw e)
    (hen : e.enabled (x.state n) = true) : x.state (n + 1) = e.effect (x.state n).rspIdle := by
  have hmoves := x.moves n
  rw [he, takeEvent, hardwareStep_enabled hen] at hmoves
  exact (Host.Outcome.next.inj hmoves).symm

/-- Settles O44: with ON and GO set a conversion is enabled, so it occurs, and it clears GO. -/
theorem fairConverterCompletes : Obligations.FairConverterCompletes := by
  intro x n₀ hfair hon
  by_contra hnone
  have hgo : ∀ n, n₀ ≤ n → (x.state n).adGo = true := fun n hn => by
    rw [← Bool.not_eq_false]
    exact fun h => hnone ⟨n, hn, h⟩
  obtain ⟨n, hn, e, he, hdone, hen⟩ := hfair n₀ fun n hn => by simp [HwEvent.enabled, hon n hn, hgo n hn]
  obtain ⟨sample, rfl⟩ := isAdcDone_iff.1 hdone
  have hcleared : (x.state (n + 1)).adGo = false := by rw [execution_occurs he hen]; exact adcDoneStep_adGo _ _
  exact Bool.noConfusion ((hgo (n + 1) (by omega)).symm.trans hcleared)

/-- The handler runs at no moment from `n₀` on, and neither does what else stops the timer's count: a reset, `TB_ARM`. -/
structure CountsFreely (x : Execution) (n₀ : Nat) : Prop where
  noReset : ∀ n, n₀ ≤ n → (x.event n).isReset = false
  noArm : ∀ n, n₀ ≤ n → ∀ w, x.event n = .cmd w → decode w ≠ .command .tbArm
  noIsr : ∀ n, n₀ ≤ n → ¬ x.occurs HwEvent.isTickIsr n

/-- TMR and TIF as one count leaves them. -/
def CountedTo (s t : State) : Prop :=
  t.tmr = (if s.tmr = 2 ^ s.cfg.tmrW - 1 then 0 else s.tmr + 1)
    ∧ t.tif = (decide (s.tmr = 2 ^ s.cfg.tmrW - 1) || s.tif)

/-- At such a moment TMR and TIF change by a count only. -/
theorem CountsFreely.step {x : Execution} {n₀ n : Nat} (h : CountsFreely x n₀) (hn : n₀ ≤ n) :
    (x.state (n + 1)).cfg = (x.state n).cfg
      ∧ ((¬ x.occurs (fun e => e == .tmrCount) n ∧ (x.state (n + 1)).tmr = (x.state n).tmr
          ∧ (x.state (n + 1)).tif = (x.state n).tif)
        ∨ CountedTo (x.state n) (x.state (n + 1))) := by
  obtain ⟨r, es, hnext⟩ := execution_moves x n
  have hcfg : (x.state (n + 1)).cfg = (x.state n).cfg := by
    obtain ⟨t, ht, -, hcfg⟩ := takeEvent_spec (x.event n) (x.state n)
    rw [x.moves n] at ht
    cases ht; exact hcfg
  refine ⟨hcfg, ?_⟩
  cases he : x.event n with
  | cmd w =>
    have hnone : ¬ x.occurs (fun e => e == .tmrCount) n := fun ⟨e, h', _⟩ => by rw [he] at h'; cases h'
    have harm := h.noArm n hn w he
    rw [hnext, he, Machine.Event.effect]
    cases hd : decode w with
    | illegal q => exact .inl ⟨hnone, rfl, rfl⟩
    | command i =>
      have hi : i ≠ .tbArm := fun h' => harm (h' ▸ hd)
      exact .inl ⟨hnone, by simp [hi], by simp [hi]⟩
  | hw e =>
    cases hen : e.enabled (x.state n) with
    | false =>
      refine .inl ⟨fun ⟨e', h', _, hen'⟩ => ?_, ?_⟩
      · rw [he] at h'; cases h'; exact Bool.noConfusion (hen.symm.trans hen')
      · rw [hnext, he, Machine.Event.effect, hardwareStep_disabled hen]; exact ⟨rfl, rfl⟩
    | true =>
      rw [execution_occurs he hen]
      have hreset := h.noReset n hn
      have hisr := h.noIsr n hn
      cases e with
      | tmrCount => exact .inr ⟨tmrCountStep_tmr _, tmrCountStep_tif _⟩
      | tickIsr => exact absurd ⟨_, he, rfl, hen⟩ hisr
      | reset d => rw [he] at hreset; cases hreset
      | adcDone | pwmCount =>
        refine .inl ⟨fun ⟨e', h', hcount, _⟩ => ?_, by simp [HwEvent.effect]⟩
        rw [he] at h'; cases h'; cases hcount

/-- So TMR stays within its width, TIF stays set once it is, and TMR falls only where TIF is set. -/
theorem CountsFreely.mono {x : Execution} {n₀ : Nat} (h : CountsFreely x n₀) {n m : Nat} (hn : n₀ ≤ n) (hm : n ≤ m) :
    (x.state m).cfg = (x.state n).cfg
      ∧ ((x.state n).tmr < 2 ^ (x.state n).cfg.tmrW → (x.state m).tmr < 2 ^ (x.state n).cfg.tmrW)
      ∧ ((x.state n).tif = true → (x.state m).tif = true)
      ∧ ((x.state m).tif = false → (x.state n).tmr ≤ (x.state m).tmr) := by
  induction m, hm using Nat.le_induction with
  | base => exact ⟨rfl, id, id, fun _ => le_rfl⟩
  | succ m hm ih =>
    obtain ⟨hcfg, hfits, htif, htmr⟩ := ih
    obtain ⟨hcfg', ⟨-, htmr', htif'⟩ | ⟨htmr', htif'⟩⟩ := h.step (hn.trans hm)
    · rw [hcfg', htmr', htif']
      exact ⟨hcfg, hfits, htif, htmr⟩
    · rw [hcfg', htmr', htif', hcfg]
      have hpow : 0 < 2 ^ (x.state n).cfg.tmrW := Nat.two_pow_pos _
      refine ⟨rfl, fun hs => ?_, fun hs => by rw [htif hs, Bool.or_true], fun hs => ?_⟩
      · have := hfits hs
        split <;> omega
      · rw [Bool.or_eq_false_iff, decide_eq_false_iff_not] at hs
        rw [if_neg hs.1]
        exact Nat.le_succ_of_le (htmr hs.2)

/-- With the timer fairly counted a tick is pending sooner or later: each count is one nearer the top. -/
theorem CountsFreely.tick_pending {x : Execution} {n₀ : Nat} (h : CountsFreely x n₀)
    (hcounts : ∀ m, ∃ n, m ≤ n ∧ x.occurs (fun e => e == .tmrCount) n) (k : Nat) :
    ∀ n, n₀ ≤ n → (x.state n).tmr < 2 ^ (x.state n).cfg.tmrW → 2 ^ (x.state n).cfg.tmrW - (x.state n).tmr ≤ k →
      ∃ m, n ≤ m ∧ (x.state m).tif = true := by
  induction k with
  | zero => intro n _ hfits hk; omega
  | succ k ih =>
    intro n hn hfits hk
    obtain ⟨m, hm, hcount⟩ := hcounts n
    obtain ⟨hcfg, hfits', -, hmono⟩ := h.mono hn hm
    obtain ⟨hcfg', ⟨hnone, -⟩ | ⟨htmr, htif⟩⟩ := h.step (hn.trans hm)
    · exact absurd hcount hnone
    rw [hcfg] at htmr htif hcfg'
    by_cases hpending : (x.state m).tif = true
    · exact ⟨m, hm, hpending⟩
    by_cases htop : (x.state m).tmr = 2 ^ (x.state n).cfg.tmrW - 1
    · exact ⟨m + 1, by omega, by rw [htif, decide_eq_true htop, Bool.true_or]⟩
    have hless := hmono (by simpa using hpending)
    have hbelow := hfits' hfits
    rw [if_neg htop] at htmr
    obtain ⟨m', hm', hpending'⟩ := ih (m + 1) (by omega) (by rw [hcfg']; omega) (by rw [hcfg']; omega)
    exact ⟨m', by omega, hpending'⟩

/-- Settles O41: if the handler never ran, a tick would be pending from some moment on, with the handler enabled, and
then the handler runs; its step adds 1 to TICKS. -/
theorem unmaskedTimebaseKeepsCounting : Obligations.UnmaskedTimebaseKeepsCounting := by
  intro x n₀ htimer hisr hinv hbits hevents
  suffices hruns : ∃ n, n₀ ≤ n ∧ x.occurs HwEvent.isTickIsr n by
    obtain ⟨n, hn, e, he, hp, hen⟩ := hruns
    refine ⟨n, hn, ⟨e, he, hp, hen⟩, ?_⟩
    rw [isTickIsr_iff.1 hp] at he hen
    rw [execution_occurs he hen]
    rfl
  by_contra hnone
  have hfree : CountsFreely x n₀ :=
    ⟨fun n hn => (hevents n hn).1, fun n hn => (hevents n hn).2, fun n hn h => hnone ⟨n, hn, h⟩⟩
  have hcounts := htimer ⟨n₀, fun n hn => (hbits n hn).1⟩
  obtain ⟨-, hfits, -⟩ := hinv
  obtain ⟨m, hm, hpending⟩ := hfree.tick_pending hcounts _ n₀ le_rfl hfits le_rfl
  obtain ⟨n, hn, hrun⟩ := hisr m fun n hn => by
    obtain ⟨-, -, hstays, -⟩ := hfree.mono hm hn
    obtain ⟨-, htie, hgie⟩ := hbits n (hm.trans hn)
    rw [enabled_tickIsr, hstays hpending, htie, hgie]
    rfl
  exact hnone ⟨n, hm.trans hn, hrun⟩

end Sys2Proof
end

section
/-! Conversions along runs (spec/42_adc.md R107, R108, R110, spec/60_exceptions.md R197). A step either completes the
pending conversion, storing its sample and clearing GO, or leaves the sample alone; so a run draws at most one sample for
one trigger. -/

namespace Sys2Proof

open Sys2Proof.Machine

/-- What one step does to the sample: an enabled `ADC_DONE` stores its draw and clears GO; no other step draws one. -/
theorem step_sample {s t : State} (hwf : s.cfg.WellFormed) (h : step s = .next t) (hr : ¬ s.resetsNext) :
    (∃ x, s.nextAgent = some (.adcDone x) ∧ (HwEvent.adcDone x).enabled s = true ∧ t.adsamp = x ∧ t.adGo = false)
    ∨ ((∀ x, s.nextAgent ≠ some (.adcDone x)) ∧ t.adsamp = s.adsamp) := by
  rcases step_effect h with ⟨-, ha, ht⟩ | ⟨i, -, ha, ht⟩ | ⟨e, -, ha, hen, ht⟩ <;> rw [ht, ha]
  · exact .inr ⟨by simp, rfl⟩
  · exact .inr ⟨by simp, effect_adsamp i s⟩
  · have hreset := isReset_of_nextAgent hr ha
    rw [withPorts_adsamp, agent_adsamp hreset, withPorts_adGo, agent_adGo hwf]
    cases e with
    | adcDone x => exact .inl ⟨x, rfl, hen, rfl, by simp [HwEvent.isAdcDone]⟩
    | _ => exact .inr ⟨by simp, rfl⟩

/-- The samples drawn by one step and the run after it. -/
theorem drawnSamples_of_done {n : Nat} {s u : State} {x : BitVec 10} (hu : step s = .next u)
    (ha : s.nextAgent = some (.adcDone x)) : drawnSamples (n + 1) s = x :: drawnSamples n u := by
  simp [drawnSamples, hu, ha]

theorem drawnSamples_of_not_done {n : Nat} {s u : State} (hu : step s = .next u)
    (ha : ∀ x, s.nextAgent ≠ some (.adcDone x)) : drawnSamples (n + 1) s = drawnSamples n u := by
  cases hn : s.nextAgent with
  | none => simp [drawnSamples, hu, hn]
  | some e =>
    cases e with
    | adcDone x => exact absurd hn (ha x)
    | _ => simp [drawnSamples, hu, hn]

/-- Without a trigger GO stays 0, and with GO 0 nothing is drawn. -/
theorem reaches_untriggered : ∀ {n : Nat} {s t : State}, Reaches n s t → s.cfg.WellFormed → s.noReset n →
    s.noCommand (fun i => i == .adcGo) n → s.adGo = false → t.adGo = false ∧ drawnSamples n s = [] ∧ t.adsamp = s.adsamp
  | 0, _, _, h, _, _, _, hgo => by obtain rfl := reaches_zero.1 h; exact ⟨hgo, rfl, rfl⟩
  | n + 1, s, t, h, hwf, hreset, hcmd, hgo => by
    obtain ⟨u, hu, hrun⟩ := reaches_succ.1 h
    obtain ⟨hr, hreset'⟩ := noReset_succ hreset hu
    obtain ⟨hc, hcmd'⟩ := noCommand_succ hcmd hu
    obtain ⟨-, -, hset, -⟩ := adctl_writers hwf hu
    have hgo' : u.adGo = false := by grind
    rcases step_sample hwf hu hr with ⟨x, -, hen, -⟩ | ⟨hnone, hsample⟩
    · simp [HwEvent.enabled, hgo] at hen
    · rw [drawnSamples_of_not_done hu hnone, ← hsample]
      exact reaches_untriggered hrun ((step_frame hu).2 ▸ hwf) hreset' hcmd' hgo'

/-- From GO 1 and without another trigger: either the conversion has completed, with one sample, or it is pending. -/
theorem reaches_triggered : ∀ {n : Nat} {s t : State}, Reaches n s t → s.cfg.WellFormed → s.noReset n →
    s.noCommand (fun i => i == .adcGo) n → s.adGo = true →
      (t.adGo = false ∧ drawnSamples n s = [t.adsamp]) ∨ (t.adGo = true ∧ drawnSamples n s = [] ∧ t.adsamp = s.adsamp)
  | 0, _, _, h, _, _, _, hgo => by obtain rfl := reaches_zero.1 h; exact .inr ⟨hgo, rfl, rfl⟩
  | n + 1, s, t, h, hwf, hreset, hcmd, hgo => by
    obtain ⟨u, hu, hrun⟩ := reaches_succ.1 h
    obtain ⟨hr, hreset'⟩ := noReset_succ hreset hu
    obtain ⟨-, hcmd'⟩ := noCommand_succ hcmd hu
    have hwf' : u.cfg.WellFormed := (step_frame hu).2 ▸ hwf
    rcases step_sample hwf hu hr with ⟨x, hx, -, hsample, hclear⟩ | ⟨hnone, hsample⟩
    · obtain ⟨hgo', hdrawn, hkept⟩ := reaches_untriggered hrun hwf' hreset' hcmd' hclear
      exact .inl ⟨hgo', by rw [drawnSamples_of_done hu hx, hdrawn, hkept, hsample]⟩
    · obtain ⟨-, -, -, hcleared, -⟩ := adctl_writers hwf hu
      have hgo' : u.adGo = true := by grind
      rw [drawnSamples_of_not_done hu hnone, ← hsample]
      exact reaches_triggered hrun hwf' hreset' hcmd' hgo'

/-- The view ADRES in the alignment in force (10_state R18). -/
theorem adres_toNat (s : State) : s.adres.toNat = if s.adFmt then s.adsamp.toNat * 64 else s.adsamp.toNat := by
  cases hfmt : s.adFmt with
  | false => exact adres_toNat_of_right hfmt
  | true => exact adres_toNat_of_left hfmt

theorem adres_toNat_div (s : State) :
    s.adres.toNat / 256 = if s.adFmt then s.adsamp.toNat / 4 else s.adsamp.toNat / 256 := by
  rw [adres_toNat]
  split <;> omega

/-- Settles O42: the trigger sets GO, and what the run then draws is read in the alignment in force. -/
theorem triggeredReadDeliversTheDrawnSample : Obligations.TriggeredReadDeliversTheDrawnSample := by
  intro n s t rest hwf _ hs hreset hcmd hrun
  have hd : decode 0x230000000000000000 = .command .adcGo := by decide
  obtain ⟨r, hu⟩ := step_cmd hs hd
  obtain ⟨u, hu', hrun'⟩ := reaches_succ.1 hrun
  rw [hu] at hu'
  cases hu'
  have hnone : ∀ x, s.nextAgent ≠ some (.adcDone x) := by simp [State.nextAgent, hs]
  have hcmd' : ((Instr.adcGo.effect s).withPorts r rest).noCommand (fun i => i == .adcGo) n :=
    fun w i hw hi => beq_eq_false_iff_ne.2 fun h => hcmd w hw (h ▸ hi)
  rw [drawnSamples_of_not_done hu hnone]
  rcases reaches_triggered hrun' hwf (noReset_succ hreset hu).2 hcmd' (putAdGo_adGo s true) with
    ⟨hgo, hdrawn⟩ | ⟨hgo, hdrawn, hsample⟩
  · exact ⟨fun _ => ⟨t.adsamp, hdrawn, exec_adcResult_eq (adres_toNat t), exec_adcResultHi_eq (adres_toNat_div t)⟩,
      fun h => Bool.noConfusion (hgo.symm.trans h)⟩
  · exact ⟨fun h => Bool.noConfusion (h.symm.trans hgo), fun _ => ⟨hdrawn, hsample⟩⟩

/-- With ON 0 no conversion is taken. -/
theorem reaches_converterOff : ∀ {n : Nat} {s t : State}, Reaches n s t → s.cfg.WellFormed → s.noReset n →
    s.noCommand Instr.selectsChannel n → s.adOn = false →
      t.adsamp = s.adsamp ∧ t.adOn = false ∧ (s.adGo = true → t.adGo = true) ∧ countTaken HwEvent.isAdcDone n s = 0
  | 0, _, _, h, _, _, _, hon => by obtain rfl := reaches_zero.1 h; exact ⟨rfl, hon, id, rfl⟩
  | n + 1, s, t, h, hwf, hreset, hcmd, hon => by
    obtain ⟨u, hu, hrun⟩ := reaches_succ.1 h
    obtain ⟨hr, hreset'⟩ := noReset_succ hreset hu
    obtain ⟨hc, hcmd'⟩ := noCommand_succ hcmd hu
    obtain ⟨hset, -, -, hclear, -⟩ := adctl_writers hwf hu
    rcases step_sample hwf hu hr with ⟨x, -, hen, -⟩ | ⟨hnone, hsample⟩
    · simp [HwEvent.enabled, hon] at hen
    have hon' : u.adOn = false := by
      rw [← Bool.not_eq_true]
      intro h'
      obtain ⟨ch, hch⟩ := hset hon h'
      exact Bool.noConfusion (hc _ hch)
    have hgo : s.adGo = true → u.adGo = true := fun hs => by grind
    have hnot : s.stepTaken HwEvent.isAdcDone = false := by
      rw [State.stepTaken, ← Bool.not_eq_true, Option.any_eq_true]
      rintro ⟨e, he, hdone⟩
      obtain ⟨x, rfl⟩ := isAdcDone_iff.1 hdone
      exact hnone x he
    obtain ⟨hsample', hon'', hgo', hcount⟩ :=
      reaches_converterOff hrun ((step_frame hu).2 ▸ hwf) hreset' hcmd' hon'
    exact ⟨hsample'.trans hsample, hon'', hgo' ∘ hgo, by rw [countTaken_succ hu, hnot, hcount]; rfl⟩

/-- Settles O43. -/
theorem converterOffFreezesTheConversion : Obligations.ConverterOffFreezesTheConversion := by
  intro n s t hwf hrun hreset hon hcmd
  refine reaches_converterOff hrun hwf hreset (fun w i hw hi => ?_) hon
  rw [← Bool.not_eq_true, selectsChannel_iff]
  rintro ⟨ch, rfl⟩
  exact hcmd w ch hw hi

end Sys2Proof
end

section
/-! The waveform along runs (spec/43_pwm.md R121 to R123, R128, spec/10_state.md R23 and R31(b)). PWM_START writes the
period and the duty together and nothing else but a reset writes either; the counter goes round the period. -/

namespace Sys2Proof

open Sys2Proof.Machine

/-- The period and the duty as numbers after a start: neither is cut by its register. -/
theorem startWaveform_tracks (s : State) {f : BitVec 16} (hf : f ≠ 0) : (s.startWaveform f).DutyTracksPeriod := by
  have hper := pwmPeriod_le s.cfg f.toNat
  have hduty := pwmDutyOf_le hper
  rw [State.DutyTracksPeriod, startWaveform_pwmper, startWaveform_pwmduty, if_neg hf, if_neg hf, BitVec.toNat_ofNat,
    BitVec.toNat_ofNat, Nat.mod_eq_of_lt (by omega), Nat.mod_eq_of_lt (by omega), pwmDutyOf]

theorem step_tracks {s t : State} (hs : s.DutyTracksPeriod) (h : step s = .next t) (hr : ¬ s.resetsNext) :
    t.DutyTracksPeriod := by
  rcases step_effect h with ⟨-, -, ht⟩ | ⟨i, -, -, ht⟩ | ⟨e, -, ha, -, ht⟩ <;> rw [ht]
  · exact hs
  · cases hstart : i.startsWaveform with
    | true => obtain ⟨f, hf, rfl⟩ := startsWaveform_iff.1 hstart; exact startWaveform_tracks s hf
    | false =>
      obtain ⟨hper, hduty⟩ := effect_period_duty hstart s
      simpa [State.DutyTracksPeriod, hper, hduty] using hs
  · have he := isReset_of_nextAgent hr ha
    simpa [State.DutyTracksPeriod, agent_pwmper he, agent_pwmduty he] using hs

/-- Settles O48: the start writes both registers, and every later step keeps the relation. -/
theorem dutyTracksThePeriodOnceStarted : Obligations.DutyTracksThePeriodOnceStarted := by
  intro n s t f hf hs hrun hreset
  obtain ⟨u, hu, hrun'⟩ := reaches_succ.1 hrun
  obtain ⟨w, rest, hevents, hd⟩ := nextCommand_eq_some_iff.1 hs
  obtain ⟨r, hu'⟩ := step_cmd hevents hd
  rw [hu] at hu'
  cases hu'
  have ht : t.DutyTracksPeriod :=
    reaches_keeps (P := State.DutyTracksPeriod) (fun _ _ hP h hr _ => step_tracks hP h hr) hrun'
      (noReset_succ hreset hu).2 (noCommand_none n _) (startWaveform_tracks s hf)
  rw [State.DutyTracksPeriod] at ht
  have hper := t.pwmper.isLt
  omega

/-- Settles O47: `PWMPER + 1` is at most the quotient, with equality where it is not clamped. -/
theorem producedFrequencyIsAtLeastTheRequest : Obligations.ProducedFrequencyIsAtLeastTheRequest := by
  intro c f hc hf hmax
  have hone := one_le_pwmQuotient hc hf hmax
  have hle {k : Nat} : k ≤ pwmQuotient c f ↔ f * (4 * c.pwmPrescale * k) ≤ c.fOsc := by
    rw [le_pwmQuotient_iff hc hf, show k * (4 * c.pwmPrescale * f) = f * (4 * c.pwmPrescale * k) by ring]
  have hpos : 0 < 4 * c.pwmPrescale * f := by
    obtain ⟨-, -, ⟨hprescale, -⟩, -⟩ := hc
    positivity
  refine ⟨hle.1 (by rw [pwmPeriod_eq_min]; omega), fun hq => ?_, fun hq => ?_⟩
  · rw [pwmPeriod_add_one_of_unclamped hone (by omega),
      show f * (4 * c.pwmPrescale * pwmQuotient c f) = pwmQuotient c f * (4 * c.pwmPrescale * f) by ring, pwmQuotient]
    exact Nat.dvd_iff_div_mul_eq _ _ |>.symm
  · calc f * (4 * c.pwmPrescale * 256) < f * (4 * c.pwmPrescale * 257) := by nlinarith
      _ ≤ c.fOsc := hle.1 hq

/-- A count modulo `PWMPER + 1` fits the counter. -/
theorem toNat_phase (per : BitVec 8) (k : Nat) :
    (BitVec.ofNat 8 (k % (per.toNat + 1))).toNat = k % (per.toNat + 1) := by
  have hk : k % (per.toNat + 1) < per.toNat + 1 := Nat.mod_lt _ (Nat.succ_pos _)
  rw [BitVec.toNat_ofNat, Nat.mod_eq_of_lt (by have := per.isLt; omega)]

/-- One count takes the counter from `k` to `k + 1` modulo `PWMPER + 1`. -/
theorem pwmCountStep_phase {s : State} {k : Nat} (h : s.pwmtmr = BitVec.ofNat 8 (k % (s.pwmper.toNat + 1))) :
    s.pwmCountStep = { s with pwmtmr := BitVec.ofNat 8 ((k + 1) % (s.pwmper.toNat + 1)) } := by
  have hk : k % (s.pwmper.toNat + 1) < s.pwmper.toNat + 1 := Nat.mod_lt _ (Nat.succ_pos _)
  have hend : s.pwmper ≤ s.pwmtmr ↔ k % (s.pwmper.toNat + 1) = s.pwmper.toNat := by
    rw [BitVec.le_def, h, toNat_phase]; omega
  unfold State.pwmCountStep
  by_cases hlast : k % (s.pwmper.toNat + 1) = s.pwmper.toNat
  · rw [if_pos (hend.2 hlast), ← Nat.mod_add_mod, hlast, Nat.mod_self]
    rfl
  · rw [if_neg (mt hend.1 hlast), ← Nat.mod_add_mod, Nat.mod_eq_of_lt (by omega), BitVec.ofNat_add, ← h]
    rfl

/-- `k` counts from PWMTMR 0, as a whole state. -/
theorem reaches_pwmCounts {s : State} {k : Nat} {rest : List Event} (hpton : s.pton = true) (hzero : s.pwmtmr = 0)
    (hs : s.events = List.replicate k (.hw .pwmCount) ++ rest) :
    Reaches k s { s with
      pwmtmr := BitVec.ofNat 8 (k % (s.pwmper.toNat + 1)), events := rest, rsp := if k = 0 then s.rsp else none } := by
  induction k generalizing rest with
  | zero =>
    rw [reaches_zero, Nat.zero_mod, if_pos rfl, show BitVec.ofNat 8 0 = s.pwmtmr from hzero.symm,
      show rest = s.events from hs.symm]
  | succ k ih =>
    rw [List.replicate_succ', List.append_assoc] at hs
    refine reaches_add.2 ⟨_, ih hs, reaches_one.2 ?_⟩
    refine Eq.trans (step_hw_enabled (e := .pwmCount) (rest := rest) rfl hpton) ?_
    rw [HwEvent.effect, pwmCountStep_phase rfl]
    rfl

/-- Settles O49: the counts by induction, and the pin by the view of the state they reach. -/
theorem waveformRepeatsEveryPeriod : Obligations.WaveformRepeatsEveryPeriod := by
  intro s k rest hpton hzero hs
  refine ⟨_, reaches_pwmCounts hpton hzero hs, rfl, fun hocen => ?_⟩
  show (s.ocen && decide (BitVec.ofNat 8 (k % (s.pwmper.toNat + 1)) < s.pwmduty)) = _
  rw [hocen, Bool.true_and, decide_eq_decide, BitVec.lt_def, toNat_phase]

end Sys2Proof
end

section
/-! The host layer, statement by statement (spec/45_host_routines.md R150 to R152), and the routines run alone: the
one-command routines and `map` (R153, R157, R161 to R164, R166). A running host is given by its variables, its code and
its callers; what one statement does to it is one equation. -/

namespace Sys2Proof

open Sys2Proof.Machine

/-! The pure function of `map`. -/

/-- `map` once the quotient is known. -/
theorem rangeMap_of_tdiv {value inMin inMax outMin outMax : BitVec 16} {q : Int} (hne : inMax ≠ inMin)
    (hq : Int.tdiv ((value.toInt - inMin.toInt) * (outMax.toInt - outMin.toInt)) (inMax.toInt - inMin.toInt) = q)
    {r : BitVec 16} (hr : q + outMin.toInt = r.toInt) : rangeMap value inMin inMax outMin outMax = some r := by
  have hlow : -2 ^ 15 ≤ r.toInt := BitVec.le_toInt r
  have hhigh : r.toInt < 2 ^ 15 := BitVec.toInt_lt
  simp only [rangeMap, if_neg hne, hq, hr]
  rw [if_pos (by omega), BitVec.ofInt_toInt]

/-- Settles O50: the product is 0 at one end and the divisor times the output width at the other. -/
theorem rangeMapTakesEndsToEnds : Obligations.RangeMapTakesEndsToEnds := by
  intro inMin inMax outMin outMax hne
  have hwidth : inMax.toInt - inMin.toInt ≠ 0 := fun h => hne (BitVec.eq_of_toInt_eq (by omega))
  constructor
  · exact rangeMap_of_tdiv hne (by rw [Int.sub_self, Int.zero_mul, Int.zero_tdiv]) (Int.zero_add _)
  · exact rangeMap_of_tdiv hne (Int.mul_tdiv_cancel_left _ hwidth) (by omega)

/-! Host variables. -/

@[simp] theorem getVar_setVar_same (vars : List (HostVar × Int)) (v : HostVar) (x : Int) :
    getVar (setVar vars v x) v = x := by simp [getVar, setVar]

theorem lookup_filter_ne {v v' : HostVar} (h : v' ≠ v) (vars : List (HostVar × Int)) :
    (vars.filter fun p => p.1 ≠ v).lookup v' = vars.lookup v' := by
  induction vars with
  | nil => rfl
  | cons p ps ih =>
    obtain ⟨u, y⟩ := p
    by_cases hu : u = v
    · subst hu
      simpa [List.lookup_cons, beq_false_of_ne h] using ih
    · by_cases hv : v' = u
      · simp [hu, hv]
      · simpa [List.lookup_cons, hu, beq_false_of_ne hv] using ih

theorem getVar_setVar_ne (vars : List (HostVar × Int)) {v v' : HostVar} (h : v' ≠ v) (x : Int) :
    getVar (setVar vars v x) v' = getVar vars v' := by
  have := lookup_filter_ne h vars
  simp_all [getVar, setVar, List.lookup_cons, beq_false_of_ne h]

/-! A running host. -/

/-- A host that has not returned. -/
def Machine.HostState.running (vars : List (HostVar × Int)) (code : List Stmt) (dst : Option HostVar)
    (callers : List Frame) (buz : Bool) : HostState :=
  ⟨⟨vars, code, dst⟩, callers, buz, none⟩

theorem launch_eq (rt : Routine) (args : List Int) (s : State) (buz : Bool) :
    rt.launch args s buz = ⟨s, .running (rt.params.zip args) [rt.body s.cfg] none [] buz⟩ := rfl

/-- The host acts, whatever the block holds and whatever is drawn, and the block is left alone. -/
def SilentStep (h h' : HostState) : Prop :=
  h.returned = none ∧ ∀ (s : State) (draw : BitVec 16), (⟨s, h⟩ : System).hostStep draw = .next ⟨s, h'⟩

section Statements

variable (vars : List (HostVar × Int)) (k : List Stmt) (dst : Option HostVar) (callers : List Frame) (buz : Bool)

theorem silent_skip : SilentStep (.running vars (.skip :: k) dst callers buz) (.running vars k dst callers buz) :=
  ⟨rfl, fun _ _ => rfl⟩

theorem silent_seq (a b : Stmt) :
    SilentStep (.running vars (.seq a b :: k) dst callers buz) (.running vars (a :: b :: k) dst callers buz) :=
  ⟨rfl, fun _ _ => rfl⟩

theorem silent_assign (v : HostVar) (e : HostExpr) :
    SilentStep (.running vars (.assign v e :: k) dst callers buz)
      (.running (setVar vars v (evalExpr vars buz e)) k dst callers buz) := ⟨rfl, fun _ _ => rfl⟩

theorem silent_setBuz (e : HostExpr) :
    SilentStep (.running vars (.setBuz e :: k) dst callers buz)
      (.running vars k dst callers (decide (evalExpr vars buz e ≠ 0))) := ⟨rfl, fun _ _ => rfl⟩

theorem silent_pause (e : HostExpr) :
    SilentStep (.running vars (.pause e :: k) dst callers buz) (.running vars k dst callers buz) :=
  ⟨rfl, fun _ _ => rfl⟩

theorem silent_ite (c : HostCond) (a b : Stmt) :
    SilentStep (.running vars (.ite c a b :: k) dst callers buz)
      (.running vars ((if evalCond vars buz c then a else b) :: k) dst callers buz) := ⟨rfl, fun _ _ => rfl⟩

theorem silent_while (c : HostCond) (body : Stmt) :
    SilentStep (.running vars (.while c body :: k) dst callers buz)
      (.running vars (if evalCond vars buz c then body :: .while c body :: k else k) dst callers buz) :=
  ⟨rfl, fun _ _ => rfl⟩

theorem silent_repeatUntil (body : Stmt) (c : HostCond) :
    SilentStep (.running vars (.repeatUntil body c :: k) dst callers buz)
      (.running vars (body :: .ite c .skip (.repeatUntil body c) :: k) dst callers buz) := ⟨rfl, fun _ _ => rfl⟩

theorem silent_require {c : HostCond} (h : evalCond vars buz c = true) :
    SilentStep (.running vars (.require c :: k) dst callers buz) (.running vars k dst callers buz) :=
  ⟨rfl, fun _ _ => if_pos h⟩

/-- The outermost routine returns. -/
theorem silent_ret (e : Option HostExpr) :
    SilentStep (.running vars (.ret e :: k) dst [] buz)
      ⟨⟨vars, [], dst⟩, [], buz, some (e.map (evalExpr vars buz))⟩ := ⟨rfl, fun _ _ => rfl⟩

/-- A called routine returns, to its caller's variable. -/
theorem silent_ret_caller (e : Option HostExpr) (vars' : List (HostVar × Int)) (k' : List Stmt) (dst' : Option HostVar) :
    SilentStep (.running vars (.ret e :: k) dst (⟨vars', k', dst'⟩ :: callers) buz)
      (.running (setDst vars' dst ((e.map (evalExpr vars buz)).getD 0)) k' dst' callers buz) := ⟨rfl, fun _ _ => rfl⟩

/-- A routine whose body does not depend on the configuration is called. -/
theorem silent_call {rt : Routine} {body : Stmt} (hbody : ∀ c, rt.body c = body) (args : List HostExpr)
    (dst' : Option HostVar) :
    SilentStep (.running vars (.call rt args dst' :: k) dst callers buz)
      (.running (rt.params.zip (args.map (evalExpr vars buz))) [body] dst' (⟨vars, k, dst⟩ :: callers) buz) :=
  ⟨rfl, fun s _ => by rw [← hbody s.cfg]; rfl⟩

theorem hostStep_require_false {c : HostCond} (h : evalCond vars buz c = false) (s : State) (draw : BitVec 16) :
    (⟨s, .running vars (.require c :: k) dst callers buz⟩ : System).hostStep draw = .refused .requireFailed :=
  if_neg (show ¬ evalCond vars buz c = true by rw [h]; decide)

/-- A well-formed command is one step of the block, and its answer goes to the variable. -/
theorem hostStep_cmd {c : HostCmd} (x : Option HostVar) {i : Instr} (hi : c.instr vars buz = i)
    (hwf : i.wellFormed = true) (s : State) (draw : BitVec 16) :
    ∃ t d, exec i s = .next t ∧ t.rsp = some ⟨false, d⟩
      ∧ (⟨s, .running vars (.cmd c x :: k) dst callers buz⟩ : System).hostStep draw
          = .next ⟨t, .running (setDst vars x d.toNat) k dst callers buz⟩ := by
  obtain ⟨r, hr, herr⟩ := exec_eq_effect i s
  obtain ⟨err, d⟩ := r
  obtain rfl : err = false := herr hwf
  refine ⟨_, d, hr, rfl, ?_⟩
  have hd : decode (encode (c.instr vars buz)) = .command i := by
    rw [hi]; exact decodeOfEncodeIsTheCommand i hwf
  obtain ⟨t, r', ht, hrsp, hissue⟩ :=
    issue_command (⟨s, .running vars k dst callers buz⟩ : System) c x hd
  rw [hr] at ht
  cases ht
  cases hrsp
  exact hissue

end Statements

/-! The host alone. -/

theorem run_silent {h h' : HostState} (hstep : SilentStep h h') (s : State) (draw : BitVec 16) (k : Nat) :
    System.run (List.replicate (k + 1) (.host draw)) ⟨s, h⟩ = System.run (List.replicate k (.host draw)) ⟨s, h'⟩ := by
  rw [List.replicate_succ, System.run, step_host, hstep.2]

theorem run_returned {y : System} {v : Option Int} (h : y.host.returned = some v) (draw : BitVec 16) (k : Nat) :
    System.run (List.replicate k (.host draw)) y = .next y := by
  have hstep : y.hostStep draw = .next y := by rw [System.hostStep, h]
  induction k with
  | zero => rfl
  | succ k ih => rw [List.replicate_succ, System.run, step_host, hstep]; exact ih

/-- A routine that is one command, and then returns: three actions, and nothing after them. -/
theorem run_oneCommand {rt : Routine} {args : List Int} {c : HostCmd} {x : Option HostVar} {e : Option HostExpr}
    {i : Instr} {s : State} {buz : Bool} (hbody : rt.body s.cfg = .seq (.cmd c x) (.ret e))
    (hi : c.instr (rt.params.zip args) buz = i) (hwf : i.wellFormed = true) (draw : BitVec 16) {k : Nat} (hk : 3 ≤ k) :
    ∃ t d z, exec i s = .next t ∧ t.rsp = some ⟨false, d⟩
      ∧ (rt.launch args s buz).run (List.replicate k (.host draw)) = .next z ∧ z.ttb = t
      ∧ z.host.returned = some (e.map (evalExpr (setDst (rt.params.zip args) x d.toNat) buz)) := by
  obtain ⟨k, rfl⟩ := Nat.exists_eq_add_of_le' hk
  obtain ⟨t, d, ht, hrsp, hcmd⟩ := hostStep_cmd (rt.params.zip args) [.ret e] none [] buz x hi hwf s draw
  refine ⟨t, d, ⟨t, ⟨⟨setDst (rt.params.zip args) x d.toNat, [], none⟩, [], buz, some _⟩⟩, ht, hrsp, ?_, rfl, rfl⟩
  rw [launch_eq, hbody, run_silent (silent_seq ..), List.replicate_succ, System.run, step_host, hcmd]
  exact (run_silent (silent_ret ..) t draw k).trans (run_returned rfl draw k)

/-- Settles O53: each routine's body is its command and a return. -/
theorem oneCommandRoutinesRunTheirCommand : Obligations.OneCommandRoutinesRunTheirCommand := by
  intro ch freq s buz draw k hk
  have hch : (HostCmd.adcSelect (.var .channel)).instr (Routine.selectChannel.params.zip [(ch.toNat : Int)]) buz
      = .adcSelect ch := by
    simp [HostCmd.instr, evalExpr, getVar, Routine.params]
  have hfreq : (HostCmd.pwmStart (.var .freqHz)).instr (Routine.start.params.zip [(freq.toNat : Int)]) buz
      = .pwmStart freq := by
    simp [HostCmd.instr, evalExpr, getVar, Routine.params]
  constructor
  · have hrun {rt : Routine} {args : List Int} {c : HostCmd} {i : Instr} (hbody : rt.body s.cfg = .seq (.cmd c none) (.ret none))
        (hi : c.instr (rt.params.zip args) buz = i) (hwf : i.wellFormed = true) :
        ∃ t z, exec i s = .next t ∧ (rt.launch args s buz).run (List.replicate k (.host draw)) = .next z
          ∧ z.ttb = t ∧ z.host.returned = some none := by
      obtain ⟨t, d, z, ht, -, hz, httb, hret⟩ := run_oneCommand hbody hi hwf draw hk
      exact ⟨t, z, ht, hz, httb, hret⟩
    simp only [List.forall_mem_cons, List.not_mem_nil, false_imp_iff, implies_true, and_true]
    exact ⟨hrun rfl hch rfl, hrun rfl hfreq rfl, hrun rfl rfl rfl, hrun rfl rfl rfl, hrun rfl rfl rfl⟩
  · obtain ⟨t, d, z, ht, hrsp, hz, httb, hret⟩ :=
      run_oneCommand (rt := .millis) (args := []) (s := s) (buz := buz) (i := .millis) rfl rfl rfl draw hk
    rw [exec_millis, respond_eq] at ht
    cases ht
    cases hrsp
    exact ⟨z, hz, httb, by rw [hret]; simp [evalExpr, setDst]⟩

/-! The routine `map`. -/

theorem run_require_false {vars : List (HostVar × Int)} {code : List Stmt} {dst : Option HostVar} {callers : List Frame}
    {buz : Bool} {c : HostCond} (h : evalCond vars buz c = false) (s : State) (draw : BitVec 16) (k : Nat) :
    System.run (List.replicate (k + 1) (.host draw)) ⟨s, .running vars (.require c :: code) dst callers buz⟩
      = .refused .requireFailed := by
  rw [List.replicate_succ, System.run, step_host, hostStep_require_false vars code dst callers buz h]

/-- The exact result of `map` over the integers, before it is fitted into 16 bits (R166). -/
def mapResult (value inMin inMax outMin outMax : Int) : Int :=
  Int.tdiv ((value - inMin) * (outMax - outMin)) (inMax - inMin) + outMin

/-- The pure function by its two requirements. -/
theorem rangeMap_eq (value inMin inMax outMin outMax : BitVec 16) :
    rangeMap value inMin inMax outMin outMax =
      if inMax = inMin then none
      else if -32768 ≤ mapResult value.toInt inMin.toInt inMax.toInt outMin.toInt outMax.toInt
          ∧ mapResult value.toInt inMin.toInt inMax.toInt outMin.toInt outMax.toInt ≤ 32767 then
        some (BitVec.ofInt 16 (mapResult value.toInt inMin.toInt inMax.toInt outMin.toInt outMax.toInt))
      else none := rfl

/-- The second half of the body, once the divisor is known not to be 0: the result is computed, and the routine requires
that it fits 16 bits. -/
theorem run_map_of_ne {vars : List (HostVar × Int)} {buz : Bool} {r : Int}
    (hr : mapResult (getVar vars .value) (getVar vars .inMin) (getVar vars .inMax) (getVar vars .outMin)
      (getVar vars .outMax) = r) (hne : getVar vars .inMax ≠ getVar vars .inMin) (c : Config) (s : State)
    (draw : BitVec 16) (k : Nat) :
    System.run (List.replicate (k + 9) (.host draw)) ⟨s, .running vars [Routine.map.body c] none [] buz⟩
      = if -32768 ≤ r ∧ r ≤ 32767 then
          .next ⟨s, ⟨setVar (setVar vars .num ((getVar vars .value - getVar vars .inMin)
            * (getVar vars .outMax - getVar vars .outMin))) .r r, [], none⟩, [], buz, some (some r)⟩
        else .refused .requireFailed := by
  simp only [Routine.body, Stmt.block]
  rw [run_silent (silent_seq ..), run_silent (silent_require _ _ _ _ _ (by simp [evalCond, evalExpr, hne])),
    run_silent (silent_seq ..), run_silent (silent_assign ..), run_silent (silent_seq ..), run_silent (silent_assign ..),
    run_silent (silent_seq ..)]
  simp only [evalExpr, getVar_setVar_same, getVar_setVar_ne _ (show HostVar.inMax ≠ .num by decide),
    getVar_setVar_ne _ (show HostVar.inMin ≠ .num by decide), getVar_setVar_ne _ (show HostVar.outMin ≠ .num by decide)]
  rw [← mapResult, hr]
  split
  next hfits =>
    rw [run_silent (silent_require _ _ _ _ _ (by simpa [evalCond, evalExpr] using hfits))]
    refine (run_silent (silent_ret ..) s draw k).trans ((run_returned rfl draw k).trans ?_)
    simp [evalExpr]
  next hout => exact run_require_false (by simpa [evalCond, evalExpr] using hout) s draw (k + 1)

/-- Settles O51: the body's two requirements are those of the pure function. -/
theorem mapRoutineComputesRangeMap : Obligations.MapRoutineComputesRangeMap := by
  intro value inMin inMax outMin outMax s buz draw k hk
  obtain ⟨k, rfl⟩ := Nat.exists_eq_add_of_le' hk
  have hvars : ∃ vars, Routine.launch .map [value.toInt, inMin.toInt, inMax.toInt, outMin.toInt, outMax.toInt] s buz
        = ⟨s, .running vars [Routine.map.body s.cfg] none [] buz⟩
      ∧ getVar vars .value = value.toInt ∧ getVar vars .inMin = inMin.toInt ∧ getVar vars .inMax = inMax.toInt
      ∧ getVar vars .outMin = outMin.toInt ∧ getVar vars .outMax = outMax.toInt := ⟨_, rfl, rfl, rfl, rfl, rfl, rfl⟩
  obtain ⟨vars, hlaunch, hvalue, hinMin, hinMax, houtMin, houtMax⟩ := hvars
  simp only [hlaunch, rangeMap_eq]
  by_cases hne : inMax = inMin
  · rw [if_pos hne]
    simp only [Routine.body, Stmt.block]
    rw [run_silent (silent_seq ..), run_require_false (by simp [evalCond, evalExpr, hinMin, hinMax, hne])]
  · have hint : inMax.toInt ≠ inMin.toInt := fun h => hne (BitVec.eq_of_toInt_eq h)
    rw [if_neg hne, run_map_of_ne rfl (by rwa [hinMax, hinMin]), hvalue, hinMin, hinMax, houtMin, houtMax]
    generalize mapResult value.toInt inMin.toInt inMax.toInt outMin.toInt outMax.toInt = r
    by_cases hfits : -32768 ≤ r ∧ r ≤ 32767
    · rw [if_pos hfits, if_pos hfits]
      have hr : (BitVec.ofInt 16 r).toInt = r := BitVec.toInt_ofInt_eq_self (by decide) (by omega) (by omega)
      exact ⟨_, rfl, by rw [hr], rfl⟩
    · rw [if_neg hfits, if_neg hfits]

end Sys2Proof
end

section
/-! What a routine can do, read off its statements (spec/45_host_routines.md R154, R155, R165, R166). A property of every
statement of a routine, and of every routine it may call, holds of all code a run still has to do; so a run without
commands leaves the block to the other agents, and one whose commands only read leaves it to them but for its response. -/

namespace Sys2Proof

open Sys2Proof.Machine

/-- Every statement within `a`, at any depth, satisfies `p`; composed ones are looked into. -/
def Machine.Stmt.every (p : Stmt → Bool) : Stmt → Bool
  | .seq a b => a.every p && b.every p
  | .ite _ a b => a.every p && b.every p
  | .while _ a => a.every p
  | .repeatUntil a _ => a.every p
  | a => p a

/-- All code a host still has to do, its callers' included. -/
def Machine.HostState.every (p : Stmt → Bool) (h : HostState) : Prop :=
  (∀ a ∈ h.frame.code, a.every p = true) ∧ ∀ f ∈ h.callers, ∀ a ∈ f.code, a.every p = true

/-- An issued command changes the host's variables only. -/
theorem issue_host {y z : System} {c : HostCmd} {x : Option HostVar} (h : y.issue c x = .next z) :
    ∃ vars, z.host = { y.host with frame := { y.host.frame with vars := vars } } := by
  unfold System.issue at h
  split at h
  case h_1 t ht =>
    split at h
    · cases h
    · cases h; exact ⟨_, rfl⟩
    · cases h; exact ⟨_, rfl⟩
  all_goals cases h

/-- Whatever a host action does, what it leaves to do is of the statements that were to do. -/
theorem hostStep_every {p : Stmt → Bool} (hskip : p .skip = true)
    (hcall : ∀ rt args dst, p (.call rt args dst) = true → ∀ c, (rt.body c).every p = true)
    {y z : System} {draw : BitVec 16} (hy : y.host.every p) (h : y.hostStep draw = .next z) : z.host.every p := by
  obtain ⟨s, ⟨⟨vars, code, dst⟩, callers, buz, returned⟩⟩ := y
  obtain ⟨hcode, hcallers⟩ := hy
  dsimp only at hcode hcallers
  cases returned with
  | some v => cases h; exact ⟨hcode, hcallers⟩
  | none =>
  have hret (x : Option Int) : (System.returnValue ⟨s, ⟨⟨vars, code, dst⟩, callers, buz, none⟩⟩ x).host.every p := by
    cases callers with
    | nil => exact ⟨by simp [System.returnValue], by simp [System.returnValue]⟩
    | cons f fs => exact ⟨hcallers f (by simp), fun g hg => hcallers g (List.mem_cons_of_mem _ hg)⟩
  cases code with
  | nil => cases h; exact hret none
  | cons a k =>
  rw [List.forall_mem_cons] at hcode
  obtain ⟨ha, hk⟩ := hcode
  have hnext {code' : List Stmt} (hcode' : ∀ b ∈ code', b.every p = true) (vars' : List (HostVar × Int)) (buz' : Bool) :
      (HostState.every p ⟨⟨vars', code', dst⟩, callers, buz', none⟩) := ⟨hcode', hcallers⟩
  have hcons {b : Stmt} {code' : List Stmt} (hb : b.every p = true) (hcode' : ∀ b ∈ code', b.every p = true) :
      ∀ b' ∈ b :: code', b'.every p = true := List.forall_mem_cons.2 ⟨hb, hcode'⟩
  match a, ha, h with
  | .ret e, ha, h => cases h; exact hret _
  | .cmd c x, ha, h =>
    obtain ⟨vars', hz⟩ := issue_host h
    rw [hz]
    exact hnext hk vars' buz
  | .call rt args x, ha, h =>
    cases h
    exact ⟨hcons (hcall rt args x ha s.cfg) (by simp), List.forall_mem_cons.2 ⟨hk, hcallers⟩⟩
  | .seq a b, ha, h =>
    cases h
    obtain ⟨ha, hb⟩ := Bool.and_eq_true_iff.1 ha
    exact hnext (hcons ha (hcons hb hk)) _ _
  | .ite c a b, ha, h =>
    cases h
    obtain ⟨ha, hb⟩ := Bool.and_eq_true_iff.1 ha
    exact hnext (hcons (by split <;> assumption) hk) _ _
  | .while c body, ha, h =>
    cases h
    refine hnext ?_ _ _
    split
    · exact hcons ha (hcons ha hk)
    · exact hk
  | .repeatUntil body c, ha, h =>
    cases h
    have hagain : (Stmt.ite c .skip (.repeatUntil body c)).every p = true := Bool.and_eq_true_iff.2 ⟨hskip, ha⟩
    exact hnext (hcons (b := body) ha (hcons hagain hk)) _ _
  | .require c, ha, h =>
    simp only [System.hostStep] at h
    split at h
    · cases h; exact hnext hk _ _
    · cases h
  | .skip, _, h | .assign .., _, h | .draw16 _, _, h | .setBuz _, _, h | .pause _, _, h => cases h; exact hnext hk _ _

/-- A host action changes BUZ by a `BUZ :=` only. -/
theorem hostStep_buz {y z : System} {draw : BitVec 16} (h : y.hostStep draw = .next z) :
    z.host.buz = y.host.buz ∨ ∃ e k, y.host.returned = none ∧ y.host.frame.code = .setBuz e :: k := by
  unfold System.hostStep at h
  split at h
  · cases h; exact .inl rfl
  next hrunning =>
    split at h
    case h_4 c x k hcode =>
      obtain ⟨vars, hz⟩ := issue_host h
      exact .inl (by rw [hz]; rfl)
    case h_7 e k hcode => exact .inr ⟨e, k, hrunning, hcode⟩
    case h_12 c k hcode =>
      dsimp only at h
      split at h
      · cases h; exact .inl rfl
      · cases h
    all_goals cases h; exact .inl (by simp)

/-- A relation between a system and the block under the same agents alone, kept by both, holds along a schedule. -/
theorem run_related {J : System → State → Prop}
    (hagent : ∀ y s e, J y s → J { y with ttb := hardwareStep e y.ttb } (hardwareStep e s))
    (hhost : ∀ y z s draw, J y s → y.hostStep draw = .next z → J z s) (schedule : List SysEvent) :
    ∀ {y z : System} {s : State}, J y s → y.run schedule = .next z → J z (agentsOnly schedule s) := by
  induction schedule with
  | nil => intro y z s hJ h; cases h; exact hJ
  | cons e es ih =>
    intro y z s hJ h
    obtain ⟨u, hu, hrun⟩ := run_cons.1 h
    cases e with
    | hw e => rw [step_hw] at hu; cases hu; exact ih (hagent y s e hJ) hrun
    | host draw => exact ih (hhost y u s draw hJ hu) hrun

/-! Routines that issue no command. -/

/-- Neither a command nor `BUZ :=`, and no call but of `delay_us`. -/
def Machine.Stmt.silent : Stmt → Bool
  | .cmd _ _ | .setBuz _ => false
  | .call rt _ _ => decide (rt = .delayUs)
  | _ => true

theorem delayUs_silent (c : Config) : (Routine.delayUs.body c).every Stmt.silent = true := rfl

theorem silent_call_body (rt : Routine) (args : List HostExpr) (dst : Option HostVar)
    (h : Stmt.silent (.call rt args dst) = true) (c : Config) : (rt.body c).every Stmt.silent = true := by
  rw [of_decide_eq_true h]; exact delayUs_silent c

/-- So a host action with only silent statements to do leaves the block and BUZ alone. -/
theorem hostStep_silent {y z : System} {draw : BitVec 16} (hsilent : y.host.every Stmt.silent)
    (h : y.hostStep draw = .next z) : z.host.every Stmt.silent ∧ z.ttb = y.ttb ∧ z.host.buz = y.host.buz := by
  have hhead {a : Stmt} {k : List Stmt} (hcode : y.host.frame.code = a :: k) : a.every Stmt.silent = true :=
    hsilent.1 a (by simp [hcode])
  refine ⟨hostStep_every rfl silent_call_body hsilent h, ?_, ?_⟩
  · rcases hostStep_ttb h with httb | ⟨c, x, k, -, hcode, -⟩
    · exact httb
    · cases hhead hcode
  · rcases hostStep_buz h with hbuz | ⟨e, k, -, hcode⟩
    · exact hbuz
    · cases hhead hcode

/-- Settles O52: the three bodies are silent. -/
theorem delaysAndMapIssueNoCommand : Obligations.DelaysAndMapIssueNoCommand := by
  intro rt args s buz schedule z hrt hrun
  have hbody : (rt.body s.cfg).every Stmt.silent = true := by rcases hrt with rfl | rfl | rfl <;> rfl
  have hlaunch : (rt.launch args s buz).host.every Stmt.silent :=
    ⟨List.forall_mem_singleton.2 hbody, by simp [Routine.launch]⟩
  have hrelated := run_related (J := fun y u => y.host.every Stmt.silent ∧ y.ttb = u ∧ y.host.buz = buz)
    (fun y u e ⟨hsilent, httb, hbuz⟩ => ⟨hsilent, by rw [httb], hbuz⟩)
    (fun y z u draw ⟨hsilent, httb, hbuz⟩ h =>
      let ⟨hsilent', httb', hbuz'⟩ := hostStep_silent hsilent h
      ⟨hsilent', httb'.trans httb, hbuz'.trans hbuz⟩)
    schedule ⟨hlaunch, rfl, rfl⟩ hrun
  exact hrelated.2

/-! The Tone Player's commands only read. -/

/-- No call but of `delay_us`, and no command but `MILLIS` and `TCMP`. -/
def Machine.Stmt.readsOnly : Stmt → Bool
  | .cmd (.fixed .millis) _ | .cmd (.tcmp _ _) _ => true
  | .cmd _ _ => false
  | .call rt _ _ => decide (rt = .delayUs)
  | _ => true

theorem readsOnly_call_body (rt : Routine) (args : List HostExpr) (dst : Option HostVar)
    (h : Stmt.readsOnly (.call rt args dst) = true) (c : Config) : (rt.body c).every Stmt.readsOnly = true := by
  rw [of_decide_eq_true h]; rfl

/-- An issued command is that command's step of the block. -/
theorem issue_ttb {y z : System} {c : HostCmd} {x : Option HostVar} {i : Instr}
    (hi : c.instr y.host.frame.vars y.host.buz = i) (hwf : i.wellFormed = true) (h : y.issue c x = .next z) :
    z.ttb = (i.effect y.ttb).withPorts z.ttb.rsp y.ttb.events := by
  have hd : decode (encode (c.instr y.host.frame.vars y.host.buz)) = .command i := by
    rw [hi]; exact decodeOfEncodeIsTheCommand i hwf
  obtain ⟨t, r, ht, -, hissue⟩ := issue_command y c x hd
  rw [h] at hissue
  split at hissue
  · cases hissue
  · cases hissue; exact effect_of_exec ht

theorem readsOnly_issue {y z : System} {c : HostCmd} {x : Option HostVar} (hreads : Stmt.readsOnly (.cmd c x) = true)
    (h : y.issue c x = .next z) : z.ttb.rspIdle = y.ttb.rspIdle := by
  cases c with
  | tcmp a b => rw [issue_ttb (i := .tcmp _ _) rfl rfl h]; rfl
  | fixed i =>
    cases i with
    | millis => rw [issue_ttb (i := .millis) rfl rfl h]; rfl
    | _ => cases hreads
  | _ => cases hreads

theorem playFreq_block {args : List Int} {s : State} {buz : Bool} {schedule : List SysEvent} {z : System}
    (h : (Routine.launch .playFreq args s buz).run schedule = .next z) :
    z.ttb.rspIdle = (agentsOnly schedule s).rspIdle := by
  have hbody : (Routine.playFreq.body s.cfg).every Stmt.readsOnly = true := rfl
  have hlaunch : (Routine.launch .playFreq args s buz).host.every Stmt.readsOnly :=
    ⟨List.forall_mem_singleton.2 hbody, by simp [Routine.launch]⟩
  refine (run_related (J := fun y u => y.host.every Stmt.readsOnly ∧ y.ttb.rspIdle = u.rspIdle) ?_ ?_ schedule
    ⟨hlaunch, rfl⟩ h).2
  · rintro y u e ⟨hreads, hidle⟩
    have hstep (v : State) : hardwareStep e v.rspIdle = hardwareStep e v := hardwareStep_withRsp e v none
    exact ⟨hreads, by rw [← hstep y.ttb, hidle, hstep]⟩
  · rintro y u v draw ⟨hreads, hidle⟩ hstep
    refine ⟨hostStep_every rfl readsOnly_call_body hreads hstep, ?_⟩
    rcases hostStep_ttb hstep with h | ⟨c, x, k, -, hcode, hissue⟩
    · rw [h, hidle]
    · have hcmd := readsOnly_issue (hreads.1 (.cmd c x) (by simp [hcode])) hissue
      rw [hcmd, withCode_ttb, hidle]

end Sys2Proof
end

section
/-! Partial correctness of a routine under every schedule (spec/45_host_routines.md R150, R158 to R160, R165). A claim about
the system a routine returns in is proved statement by statement: before each one stands an assertion about the block that
the other agents' steps keep. The bound on the schedule's length is what loops are proved by induction on. -/

namespace Sys2Proof

open Sys2Proof.Machine

/-- The agents' steps that `ok` admits keep the assertion. -/
def Stable (ok : HwEvent → Prop) (A : State → Prop) : Prop := ∀ s e, ok e → A s → A (hardwareStep e s)

/-- Under every schedule of at most `n` entries, with the agents' steps that `ok` admits: if the host has returned in the
end, `Q` holds. -/
def Assured (ok : HwEvent → Prop) (Q : System → Prop) (n : Nat) (y : System) : Prop :=
  ∀ schedule : List SysEvent, schedule.length ≤ n → (∀ e, .hw e ∈ schedule → ok e) →
    ∀ z, y.run schedule = .next z → z.host.returned ≠ none → Q z

/-- The same from every block that satisfies the assertion `A`. -/
def Safe (ok : HwEvent → Prop) (Q : System → Prop) (n : Nat) (A : State → Prop) (h : HostState) : Prop :=
  ∀ s, A s → Assured ok Q n ⟨s, h⟩

section Rules

variable {ok : HwEvent → Prop} {Q : System → Prop} {n : Nat} {A B : State → Prop} {h h' : HostState}

theorem Safe.mono {m : Nat} (hsafe : Safe ok Q n A h) (hm : m ≤ n) : Safe ok Q m A h :=
  fun s hs schedule hlen => hsafe s hs schedule (hlen.trans hm)

/-- One host action, whenever the schedule lets it happen. -/
theorem safe_of_hostStep (hA : Stable ok A) (hrunning : h.returned = none)
    (hstep : ∀ s draw z, A s → (⟨s, h⟩ : System).hostStep draw = .next z → ∀ m < n, Assured ok Q m z) :
    Safe ok Q n A h := by
  intro s hs schedule
  induction schedule generalizing s with
  | nil => intro _ _ z hz hret; cases hz; exact absurd hrunning hret
  | cons e es ih =>
    intro hlen hok z hz hret
    obtain ⟨u, hu, hrun⟩ := run_cons.1 hz
    rw [List.length_cons] at hlen
    cases e with
    | hw e =>
      cases hu
      exact ih _ (hA s e (hok e (by simp)) hs) (by omega) (fun e' he' => hok e' (by simp [he'])) z hrun hret
    | host draw =>
      exact hstep s draw u hs hu (n - 1) (by omega) es (by omega) (fun e' he' => hok e' (by simp [he'])) z hrun hret

/-- A silent action. A shorter schedule is left, which is what a loop's induction needs. -/
theorem safe_silent_lt (hA : Stable ok A) (hstep : SilentStep h h') (hnext : ∀ m < n, Safe ok Q m A h') :
    Safe ok Q n A h :=
  safe_of_hostStep hA hstep.1 fun s draw z hs hz m hm => by
    rw [hstep.2] at hz
    cases hz
    exact hnext m hm s hs

theorem safe_silent (hA : Stable ok A) (hstep : SilentStep h h') (hnext : Safe ok Q n A h') : Safe ok Q n A h :=
  safe_silent_lt hA hstep fun _ hm => hnext.mono hm.le

/-- A host that has returned: the assertion is all that is left to use. -/
theorem safe_returned (hA : Stable ok A) {v : Option Int} (hv : h.returned = some v) (hQ : ∀ s, A s → Q ⟨s, h⟩) :
    Safe ok Q n A h := by
  intro s hs schedule
  induction schedule generalizing s with
  | nil => intro _ _ z hz _; cases hz; exact hQ s hs
  | cons e es ih =>
    intro hlen hok z hz hret
    obtain ⟨u, hu, hrun⟩ := run_cons.1 hz
    rw [List.length_cons] at hlen
    cases e with
    | hw e =>
      cases hu
      exact ih _ (hA s e (hok e (by simp)) hs) (by omega) (fun e' he' => hok e' (by simp [he'])) z hrun hret
    | host draw =>
      have hidle : (⟨s, h⟩ : System).hostStep draw = .next ⟨s, h⟩ := by rw [System.hostStep, hv]
      rw [step_host, hidle] at hu
      cases hu
      exact ih s hs (by omega) (fun e' he' => hok e' (by simp [he'])) z hrun hret

variable {vars : List (HostVar × Int)} {k : List Stmt} {dst : Option HostVar} {callers : List Frame} {buz : Bool}

/-- A command: its effect takes the assertion before it to one after it, for the answer it gives. -/
theorem safe_cmd (hA : Stable ok A) {c : HostCmd} {x : Option HostVar} {i : Instr} (hi : c.instr vars buz = i)
    (hwf : i.wellFormed = true)
    (hnext : ∀ s t d, A s → exec i s = .next t → t.rsp = some ⟨false, d⟩ →
      Assured ok Q n ⟨t, .running (setDst vars x d.toNat) k dst callers buz⟩) :
    Safe ok Q n A (.running vars (.cmd c x :: k) dst callers buz) :=
  safe_of_hostStep hA rfl fun s draw z hs hz m hm => by
    obtain ⟨t, d, ht, hd, hstep⟩ := hostStep_cmd vars k dst callers buz x hi hwf s draw
    rw [hstep] at hz
    cases hz
    exact fun schedule hlen => hnext s t d hs ht hd schedule (hlen.trans hm.le)

/-- A requirement: where it fails the routine is refused, and nothing is claimed. -/
theorem safe_require (hA : Stable ok A) {c : HostCond}
    (hnext : Safe ok Q n A (.running vars k dst callers buz)) :
    Safe ok Q n A (.running vars (.require c :: k) dst callers buz) := by
  cases hc : evalCond vars buz c with
  | true => exact safe_silent hA (silent_require vars k dst callers buz hc) hnext
  | false =>
    exact safe_of_hostStep hA rfl fun s draw z _ hz => by
      rw [hostStep_require_false vars k dst callers buz hc] at hz
      cases hz

/-- A draw, of any value. -/
theorem safe_draw16 (hA : Stable ok A) {v : HostVar}
    (hnext : ∀ x, Safe ok Q n A (.running (setVar vars v x) k dst callers buz)) :
    Safe ok Q n A (.running vars (.draw16 v :: k) dst callers buz) :=
  safe_of_hostStep hA rfl fun s draw z hs hz m hm => by
    cases hz
    exact (hnext draw.toNat).mono hm.le s hs

/-- A call of `delay_us`: it returns, and only the time has passed. -/
theorem safe_delayUs (hA : Stable ok A) {args : List HostExpr}
    (hnext : Safe ok Q n A (.running vars k dst callers buz)) :
    Safe ok Q n A (.running vars (.call .delayUs args none :: k) dst callers buz) := by
  refine safe_silent hA (silent_call _ _ _ _ _ (fun c => rfl) _ _) ?_
  refine safe_silent hA (silent_seq ..) (safe_silent hA (silent_ite ..) ?_)
  split
  · exact safe_silent hA (silent_ret_caller ..) hnext
  · exact safe_silent hA (silent_skip ..) (safe_silent hA (silent_seq ..) (safe_silent hA (silent_pause ..)
      (safe_silent hA (silent_ret_caller ..) hnext)))

end Rules

/-! The Tone Player. -/

theorem stable_true (ok : HwEvent → Prop) : Stable ok fun _ => True := fun _ _ _ _ => trivial

/-- The statement the Tone Player repeats until its duration has elapsed (R165). -/
def toneLoop : Stmt :=
  .while (.eq (.var .done) (.lit 0)) (.seq (.setBuz (.sub (.lit 1) .buz)) (.seq (.call .delayUs [.var .h] none)
    (.cmd (.tcmp (.var .t0) (.var .durationMs)) (some .done))))

/-- Whenever the loop ends, `BUZ := 0` comes before the return. -/
theorem safe_toneLoop {ok : HwEvent → Prop} (n : Nat) (vars : List (HostVar × Int)) (buz : Bool) :
    Safe ok (fun z => z.host.buz = false) n (fun _ => True)
      (.running vars [toneLoop, .seq (.setBuz (.lit 0)) (.ret none)] none [] buz) := by
  have hT := stable_true ok
  induction n using Nat.strong_induction_on generalizing vars buz with
  | _ n ih =>
  refine safe_silent_lt hT (silent_while ..) fun m hm => ?_
  split
  · refine safe_silent hT (silent_seq ..) (safe_silent hT (silent_setBuz ..) (safe_silent hT (silent_seq ..) ?_))
    refine safe_delayUs hT (safe_cmd hT rfl rfl fun s t d _ _ _ => ?_)
    exact ih m hm _ _ t trivial
  · refine safe_silent hT (silent_seq ..) (safe_silent hT (silent_setBuz ..) (safe_silent hT (silent_ret ..) ?_))
    exact safe_returned hT rfl fun _ _ => rfl

theorem safe_playFreq {ok : HwEvent → Prop} (n : Nat) (vars : List (HostVar × Int)) (buz : Bool) (c : Config) :
    Safe ok (fun z => z.host.buz = false) n (fun _ => True) (.running vars [Routine.playFreq.body c] none [] buz) := by
  have hT := stable_true ok
  have hloop (vars' : List (HostVar × Int)) : Safe ok (fun z => z.host.buz = false) n (fun _ => True)
      (.running vars' [.seq (.cmd (.fixed .millis) (some .t0)) (.seq (.cmd (.tcmp (.var .t0) (.var .durationMs)) (some .done))
        (.seq toneLoop (.seq (.setBuz (.lit 0)) (.ret none))))] none [] buz) := by
    refine safe_silent hT (silent_seq ..) (safe_cmd hT rfl rfl fun s t d _ _ _ => ?_)
    refine safe_silent hT (silent_seq ..) (safe_cmd hT rfl rfl fun s t d _ _ _ => ?_) t trivial
    exact safe_silent hT (silent_seq ..) (safe_toneLoop n _ buz) t trivial
  refine safe_silent hT (silent_seq ..) (safe_require hT ?_)
  refine safe_silent hT (silent_seq ..) (safe_silent hT (silent_assign ..) ?_)
  refine safe_silent hT (silent_seq ..) (safe_silent hT (silent_ite ..) ?_)
  split
  · exact safe_silent hT (silent_assign ..) (hloop _)
  · exact safe_draw16 hT fun _ => hloop _

/-- Settles O56: the loop ends with BUZ deasserted, the commands only read, and frequency 0 fails the requirement. -/
theorem playFreqLeavesTheBuzzerOff : Obligations.PlayFreqLeavesTheBuzzerOff := by
  constructor
  · intro freq dur s buz schedule z _ hrun
    refine ⟨fun hret => ?_, playFreq_block hrun⟩
    exact safe_playFreq (ok := fun _ => True) schedule.length _ buz s.cfg s trivial schedule le_rfl (fun _ _ => trivial) z hrun
      hret
  · intro dur s buz d₁ d₂ schedule
    have hzero : evalCond (Routine.playFreq.params.zip [0, (dur.toNat : Int)]) buz (.not (.eq (.var .freqHz) (.lit 0)))
        = false := rfl
    rw [launch_eq, System.run, step_host]
    simp only [Routine.body, Stmt.block]
    rw [(silent_seq ..).2]
    simp only [System.run, step_host, hostStep_require_false _ _ _ _ _ hzero]

/-! One conversion: the two `read` routines. -/

/-- `read` and `read_8bit` differ in the alignment command, the result command and the width they cut to (R158, R159). -/
def sampleBody (align result : Instr) (bits : Nat) : Stmt :=
  .seq (.cmd (.fixed align) none) (.seq (.cmd (.fixed .adcGo) none)
    (.seq (.repeatUntil (.cmd (.fixed .adcPoll) (some .busy)) (.eq (.var .busy) (.lit 0)))
      (.seq (.cmd (.fixed result) (some .r)) (.ret (some (.low bits (.var .r)))))))

/-- Assertions for one conversion: `A` before it, `B` while polling, `C` once GO has been read as 0, `D x` once the result
`x` has been read. -/
structure Conversion (ok : HwEvent → Prop) (align result : Instr) (bits : Nat) (A B C : State → Prop)
    (D : Int → State → Prop) : Prop where
  stable_before : Stable ok A
  stable_polling : Stable ok B
  stable_done : Stable ok C
  stable_read : ∀ x, Stable ok (D x)
  align_wellFormed : align.wellFormed = true
  result_wellFormed : result.wellFormed = true
  of_align : ∀ s t, A s → exec align s = .next t → B t
  of_go : ∀ s t, B s → exec .adcGo s = .next t → B t
  of_poll : ∀ s t, B s → exec .adcPoll s = .next t → B t ∧ (s.adGo = false → C t)
  of_result : ∀ s t d, C s → exec result s = .next t → t.rsp = some ⟨false, d⟩ → D ((d.toNat : Int) % 2 ^ bits) t

section Sample

variable {ok : HwEvent → Prop} {Q : System → Prop} {align result : Instr} {bits : Nat} {A B C : State → Prop}
  {D : Int → State → Prop} {dst : Option HostVar} {callers : List Frame} {buz : Bool} {k : List Stmt}

/-- The polling loop ends only where GO has been read as 0. -/
theorem safe_pollLoop (hconv : Conversion ok align result bits A B C D) (n : Nat)
    (hnext : ∀ vars, Safe ok Q n C (.running vars k dst callers buz)) (vars : List (HostVar × Int)) :
    Safe ok Q n B (.running vars
      (.repeatUntil (.cmd (.fixed .adcPoll) (some .busy)) (.eq (.var .busy) (.lit 0)) :: k) dst callers buz) := by
  have hB := hconv.stable_polling
  have hC := hconv.stable_done
  induction n using Nat.strong_induction_on generalizing vars with
  | _ n ih =>
  refine safe_silent_lt hB (silent_repeatUntil ..) fun m hm =>
    safe_cmd hB (i := .adcPoll) rfl rfl fun s t d hs ht hd => ?_
  obtain ⟨hpolling, hdone⟩ := hconv.of_poll s t hs ht
  rw [exec_adcPoll] at ht
  cases ht
  cases hd
  rcases Bool.eq_false_or_eq_true s.adGo with hgo | hgo
  · refine safe_silent hB (silent_ite ..) ?_ _ hpolling
    rw [if_neg (by simp [evalCond, evalExpr, setDst, hgo])]
    exact ih m hm (fun vars' => (hnext vars').mono hm.le) _
  · refine safe_silent hC (silent_ite ..) ?_ _ (hdone hgo)
    rw [if_pos (by simp [evalCond, evalExpr, setDst, hgo])]
    exact safe_silent hC (silent_skip ..) ((hnext _).mono hm.le)

/-- The body down to its return statement, which goes to the caller or to the outside. -/
theorem safe_sample (hconv : Conversion ok align result bits A B C D) {n : Nat}
    (hreturn : ∀ vars, Safe ok Q n (D (getVar vars .r % 2 ^ bits))
      (.running vars [.ret (some (.low bits (.var .r)))] dst callers buz)) (vars : List (HostVar × Int)) :
    Safe ok Q n A (.running vars [sampleBody align result bits] dst callers buz) := by
  have hA := hconv.stable_before
  have hB := hconv.stable_polling
  have hC := hconv.stable_done
  refine safe_silent hA (silent_seq ..) (safe_cmd hA rfl hconv.align_wellFormed fun s t d hs ht _ => ?_)
  refine safe_silent hB (silent_seq ..) (safe_cmd hB rfl rfl fun s t d hs ht _ => ?_) t (hconv.of_align s t hs ht)
  refine safe_silent hB (silent_seq ..) (safe_pollLoop hconv n (fun vars' => ?_) _) t (hconv.of_go s t hs ht)
  refine safe_silent hC (silent_seq ..) (safe_cmd hC rfl hconv.result_wellFormed fun s t d hs ht hd => ?_)
  refine hreturn _ t ?_
  rw [setDst, getVar_setVar_same]
  exact hconv.of_result s t d hs ht hd

end Sample

/-! What the other agents' steps keep. -/

/-- An offered agent's step is its effect or nothing, but for the response. -/
theorem hardwareStep_cases (e : HwEvent) (s : State) :
    (e.enabled s = true ∧ hardwareStep e s = (e.effect s).withPorts none s.events)
    ∨ (e.enabled s = false ∧ hardwareStep e s = s.withPorts none s.events) := by
  cases hen : e.enabled s with
  | false => exact .inr ⟨rfl, hardwareStep_disabled hen⟩
  | true => exact .inl ⟨rfl, (hardwareStep_enabled hen).trans (effect_offer e s s.events)⟩

/-- No reset is among the agents' steps. -/
def NoReset (e : HwEvent) : Prop := e.isReset = false

/-- The configuration and FMT right-justified: no agent sets FMT, and a reset clears it (10_state R29). -/
def RightJustified (c : Config) (s : State) : Prop := s.cfg = c ∧ s.adFmt = false

/-- The configuration, the alignment and the channel: without a reset no agent changes them. -/
def Selected (c : Config) (fmt : Bool) (chs : BitVec 8) (s : State) : Prop :=
  s.cfg = c ∧ s.adFmt = fmt ∧ s.adChs = chs

theorem stable_cfg (ok : HwEvent → Prop) (c : Config) : Stable ok fun s => s.cfg = c :=
  fun s e _ hs => (hardwareStep_spec e s).2.2.trans hs

theorem stable_cfg_chs {c : Config} (hc : c.WellFormed) (chs : BitVec 8) :
    Stable NoReset fun s => s.cfg = c ∧ s.adChs = chs := by
  rintro s e he ⟨rfl, hchs⟩
  rcases hardwareStep_cases e s with ⟨-, hstep⟩ | ⟨-, hstep⟩ <;> rw [hstep]
  · exact ⟨agent_cfg e s, (agent_adChs hc he).trans hchs⟩
  · exact ⟨rfl, hchs⟩

theorem stable_rightJustified (ok : HwEvent → Prop) {c : Config} (hc : c.WellFormed) : Stable ok (RightJustified c) := by
  rintro s e - ⟨rfl, hfmt⟩
  rcases hardwareStep_cases e s with ⟨-, hstep⟩ | ⟨-, hstep⟩ <;> rw [hstep]
  · exact ⟨agent_cfg e s, by rw [withPorts_adFmt, agent_adFmt hc, hfmt, Bool.false_and]⟩
  · exact ⟨rfl, hfmt⟩

theorem stable_selected {c : Config} (hc : c.WellFormed) (fmt : Bool) (chs : BitVec 8) :
    Stable NoReset (Selected c fmt chs) := by
  rintro s e he ⟨rfl, hfmt, hchs⟩
  rcases hardwareStep_cases e s with ⟨-, hstep⟩ | ⟨-, hstep⟩ <;> rw [hstep]
  · refine ⟨agent_cfg e s, ?_, (agent_adChs hc he).trans hchs⟩
    rw [withPorts_adFmt, agent_adFmt hc, hfmt, show e.isReset = false from he, Bool.not_false, Bool.and_true]
  · exact ⟨rfl, hfmt, hchs⟩

/-- With GO 0 no conversion completes, so the sample stands. -/
theorem stable_sampled {c : Config} (hc : c.WellFormed) (fmt : Bool) (chs : BitVec 8) (x : BitVec 10) :
    Stable NoReset fun s => Selected c fmt chs s ∧ s.adGo = false ∧ s.adsamp = x := by
  rintro s e he ⟨hsel, hgo, hx⟩
  have hsel' := stable_selected hc fmt chs s e he hsel
  obtain ⟨rfl, -⟩ := hsel
  refine ⟨hsel', ?_⟩
  rcases hardwareStep_cases e s with ⟨hen, hstep⟩ | ⟨-, hstep⟩ <;> rw [hstep]
  · refine ⟨by rw [withPorts_adGo, agent_adGo hc, hgo, Bool.false_and, Bool.false_and], ?_⟩
    rw [withPorts_adsamp, agent_adsamp he, ← hx]
    cases e with
    | adcDone sample => simp [HwEvent.enabled, hgo] at hen
    | _ => rfl
  · exact ⟨hgo, hx⟩

/-! What the conversion's commands do to the assertions. -/

/-- The answers of the two result commands as numbers (42_adc R105, R106). -/
theorem adcResult_data {s t : State} {d : Data} (h : exec .adcResult s = .next t) (hd : t.rsp = some ⟨false, d⟩) :
    d.toNat = s.adres.toNat := by
  cases h
  cases hd
  exact BitVec.toNat_setWidth_of_le (by decide)

theorem adcResultHi_data {s t : State} {d : Data} (h : exec .adcResultHi s = .next t) (hd : t.rsp = some ⟨false, d⟩) :
    d.toNat = s.adres.toNat / 256 := by
  cases h
  cases hd
  rw [BitVec.toNat_setWidth_of_le (by decide), adresHigh_toNat]

/-- With resets among the agents' steps: FMT is right-justified whenever the result is read, so it has ten bits. -/
theorem conversion_tenBits (ok : HwEvent → Prop) {c : Config} (hc : c.WellFormed) :
    Conversion ok .adcJustR .adcResult 16 (fun s => s.cfg = c) (RightJustified c) (RightJustified c)
      (fun x _ => 0 ≤ x ∧ x ≤ 1023) where
  stable_before := stable_cfg ok c
  stable_polling := stable_rightJustified ok hc
  stable_done := stable_rightJustified ok hc
  stable_read _ := fun _ _ _ h => h
  align_wellFormed := rfl
  result_wellFormed := rfl
  of_align s t hs ht := by cases ht; exact ⟨hs, putAdFmt_adFmt s false⟩
  of_go s t hs ht := by cases ht; exact ⟨hs.1, (putAdGo_adFmt s true).trans hs.2⟩
  of_poll s t hs ht := by cases ht; exact ⟨hs, fun _ => hs⟩
  of_result s t d hs ht hd := by
    have hdata := adcResult_data ht hd
    rw [adres_toNat_of_right hs.2] at hdata
    have hwidth := s.adsamp.isLt
    constructor <;> omega

/-- Eight bits are cut out of whatever is read. -/
theorem conversion_eightBits (ok : HwEvent → Prop) :
    Conversion ok .adcJustL .adcResultHi 8 (fun _ => True) (fun _ => True) (fun _ => True)
      (fun x _ => 0 ≤ x ∧ x ≤ 255) where
  stable_before := stable_true ok
  stable_polling := stable_true ok
  stable_done := stable_true ok
  stable_read _ := fun _ _ _ h => h
  align_wellFormed := rfl
  result_wellFormed := rfl
  of_align _ _ _ _ := trivial
  of_go _ _ _ _ := trivial
  of_poll _ _ _ _ := ⟨trivial, fun _ => trivial⟩
  of_result _ _ d _ _ _ := by constructor <;> omega

/-- Without a reset: the alignment and the channel stand, and once GO has been read as 0 the sample stands too. `value` is
what the result command reads of a sample in that alignment. -/
theorem conversion_selected {c : Config} (hc : c.WellFormed) (chs : BitVec 8) {align result : Instr} {bits : Nat} {fmt : Bool}
    {value : BitVec 10 → Int} (halign : ∀ s, (align.effect s).adFmt = fmt) (hwfAlign : align.wellFormed = true)
    (hchannel : align.selectsChannel = false) (hresult : ∀ s, result.effect s = s) (hwfResult : result.wellFormed = true)
    (hvalue : ∀ s t d, s.adFmt = fmt → exec result s = .next t → t.rsp = some ⟨false, d⟩ →
      (d.toNat : Int) % 2 ^ bits = value s.adsamp) :
    Conversion NoReset align result bits (fun s => s.cfg = c ∧ s.adChs = chs) (Selected c fmt chs)
      (fun s => Selected c fmt chs s ∧ s.adGo = false)
      (fun x s => Selected c fmt chs s ∧ s.adGo = false ∧ x = value s.adsamp) where
  stable_before := stable_cfg_chs hc chs
  stable_polling := stable_selected hc fmt chs
  stable_done s e he := fun ⟨hsel, hgo⟩ =>
    let ⟨hsel', hgo', _⟩ := stable_sampled hc fmt chs s.adsamp s e he ⟨hsel, hgo, rfl⟩
    ⟨hsel', hgo'⟩
  stable_read x s e he := fun ⟨hsel, hgo, hx⟩ =>
    let ⟨hsel', hgo', hsample⟩ := stable_sampled hc fmt chs s.adsamp s e he ⟨hsel, hgo, rfl⟩
    ⟨hsel', hgo', hsample ▸ hx⟩
  align_wellFormed := hwfAlign
  result_wellFormed := hwfResult
  of_align s t := by
    rintro ⟨rfl, rfl⟩ ht
    rw [effect_of_exec ht]
    exact ⟨effect_cfg align s, halign s, effect_adChs_of_not_select hc hchannel⟩
  of_go s t := by
    rintro ⟨hcfg, hfmt, hchs⟩ ht
    cases ht
    exact ⟨hcfg, (putAdGo_adFmt s true).trans hfmt, ((putAd_adChs (hcfg ▸ hc) true).2.1).trans hchs⟩
  of_poll s t hs ht := by cases ht; exact ⟨hs, fun hgo => ⟨hs, hgo⟩⟩
  of_result s t d := by
    rintro ⟨hsel, hgo⟩ ht hd
    have hread := hvalue s t d hsel.2.1 ht hd
    rw [effect_of_exec ht, hresult]
    exact ⟨hsel, hgo, hread⟩

/-- `read` answers the whole sample, `read_8bit` its top eight bits. -/
theorem conversion_read {c : Config} (hc : c.WellFormed) (chs : BitVec 8) :
    Conversion NoReset .adcJustR .adcResult 16 (fun s => s.cfg = c ∧ s.adChs = chs) (Selected c false chs)
      (fun s => Selected c false chs s ∧ s.adGo = false)
      (fun x s => Selected c false chs s ∧ s.adGo = false ∧ x = (s.adsamp.toNat : Int)) :=
  conversion_selected hc chs (value := fun x => x.toNat) (fun s => putAdFmt_adFmt s false) rfl rfl (fun _ => rfl) rfl
    fun s t d hfmt ht hd => by
      have hdata := adcResult_data ht hd
      rw [adres_toNat_of_right hfmt] at hdata
      have hwidth := s.adsamp.isLt
      omega

theorem conversion_read8 {c : Config} (hc : c.WellFormed) (chs : BitVec 8) :
    Conversion NoReset .adcJustL .adcResultHi 8 (fun s => s.cfg = c ∧ s.adChs = chs) (Selected c true chs)
      (fun s => Selected c true chs s ∧ s.adGo = false)
      (fun x s => Selected c true chs s ∧ s.adGo = false ∧ x = ((s.adsamp.toNat / 4 : Nat) : Int)) :=
  conversion_selected hc chs (value := fun x => ((x.toNat / 4 : Nat) : Int)) (fun s => putAdFmt_adFmt s true) rfl rfl
    (fun _ => rfl) rfl fun s t d hfmt ht hd => by
      have hdata := adcResultHi_data ht hd
      rw [adres_toNat_of_left hfmt] at hdata
      have hwidth := s.adsamp.isLt
      omega

/-! The routines. -/

/-- A `read` routine called from outside: `Q` of what it returns, wherever the schedule ends. -/
theorem assured_sample {ok : HwEvent → Prop} {Q : System → Prop} {align result : Instr} {bits : Nat} {A B C : State → Prop}
    {D : Int → State → Prop} (hconv : Conversion ok align result bits A B C D) {rt : Routine}
    (hbody : ∀ c, rt.body c = sampleBody align result bits)
    (hQ : ∀ x z, D x z.ttb → z.host.returned = some (some x) → Q z) (n : Nat) {s : State} (hs : A s) (buz : Bool) :
    Assured ok Q n (rt.launch [] s buz) := by
  rw [launch_eq, hbody]
  exact safe_sample hconv (fun vars => safe_silent (hconv.stable_read _) (silent_ret ..)
    (safe_returned (hconv.stable_read _) rfl fun t ht => hQ _ _ ht rfl)) _ s hs

/-- The agents' steps of a schedule without a reset. -/
theorem noReset_of_schedule {schedule : List SysEvent} (h : ∀ d, .hw (.reset d) ∉ schedule) (e : HwEvent)
    (he : .hw e ∈ schedule) : NoReset e := by
  rw [NoReset, ← Bool.not_eq_true, isReset_iff]
  rintro ⟨d, rfl⟩
  exact h d he

/-- Settles O54: the two routines with and without resets in the schedule. -/
theorem readRoutinesReturnTheSample : Obligations.ReadRoutinesReturnTheSample := by
  intro s buz schedule z v hwf hv
  have hret : z.host.returned ≠ none := by rw [hv]; simp
  refine ⟨fun hrun => ⟨?_, fun hreset => ?_⟩, fun hrun => ⟨?_, fun hreset => ?_⟩⟩
  · exact assured_sample (Q := fun z => ∀ v, z.host.returned = some v → ∃ r : Int, v = some r ∧ 0 ≤ r ∧ r ≤ 1023)
      (conversion_tenBits (fun _ => True) hwf) (fun _ => rfl)
      (fun x z hx hz v hv => ⟨x, Option.some.inj (hv.symm.trans hz), hx⟩)
      schedule.length rfl buz schedule le_rfl (fun _ _ => trivial) z hrun hret v hv
  · exact assured_sample (Q := fun z => ∀ v, z.host.returned = some v →
        v = some (z.ttb.adsamp.toNat : Int) ∧ z.ttb.adGo = false ∧ z.ttb.adFmt = false)
      (conversion_read hwf s.adChs) (fun _ => rfl)
      (fun x z ⟨⟨_, hfmt, _⟩, hgo, hx⟩ hz v hv => ⟨hx ▸ Option.some.inj (hv.symm.trans hz), hgo, hfmt⟩)
      schedule.length ⟨rfl, rfl⟩ buz schedule le_rfl (noReset_of_schedule hreset) z hrun hret v hv
  · exact assured_sample (Q := fun z => ∀ v, z.host.returned = some v → ∃ r : Int, v = some r ∧ 0 ≤ r ∧ r ≤ 255)
      (conversion_eightBits fun _ => True) (fun _ => rfl)
      (fun x z hx hz v hv => ⟨x, Option.some.inj (hv.symm.trans hz), hx⟩)
      schedule.length trivial buz schedule le_rfl (fun _ _ => trivial) z hrun hret v hv
  · exact assured_sample (Q := fun z => ∀ v, z.host.returned = some v →
        v = some ((z.ttb.adsamp.toNat / 4 : Nat) : Int) ∧ z.ttb.adGo = false ∧ z.ttb.adFmt = true)
      (conversion_read8 hwf s.adChs) (fun _ => rfl)
      (fun x z ⟨⟨_, hfmt, _⟩, hgo, hx⟩ hz v hv => ⟨hx ▸ Option.some.inj (hv.symm.trans hz), hgo, hfmt⟩)
      schedule.length ⟨rfl, rfl⟩ buz schedule le_rfl (noReset_of_schedule hreset) z hrun hret v hv

/-- `read_channel`: the channel is selected, the settling time passes, one conversion is read, the converter is left off
(R160). `E x` stands after the converter is off. -/
theorem assured_readChannel {ok : HwEvent → Prop} {Q : System → Prop} {S A B C : State → Prop} {D E : Int → State → Prop}
    (hconv : Conversion ok .adcJustR .adcResult 16 A B C D) (hS : Stable ok S) (hE : ∀ x, Stable ok (E x)) (ch : BitVec 8)
    (hselect : ∀ s t, S s → exec (.adcSelect ch) s = .next t → A t)
    (hoff : ∀ x s t, D x s → exec .adcOff s = .next t → E x t)
    (hQ : ∀ x z, E x z.ttb → z.host.returned = some (some x) → Q z) (n : Nat) {s : State} (hs : S s) (buz : Bool) :
    Assured ok Q n (Routine.launch .readChannel [(ch.toNat : Int)] s buz) := by
  have hA := hconv.stable_before
  have hD := hconv.stable_read
  rw [launch_eq]
  refine safe_silent hS (silent_seq ..) (safe_silent hS (silent_call _ _ _ _ _ (fun c => rfl) _ _) ?_) s hs
  refine safe_silent hS (silent_seq ..) (safe_cmd hS (i := .adcSelect ch) ?_ rfl fun s t d hs ht _ => ?_)
  · simp [HostCmd.instr, evalExpr, getVar, Routine.params]
  refine safe_silent hA (silent_ret_caller ..) ?_ t (hselect s t hs ht)
  refine safe_silent hA (silent_seq ..) (safe_delayUs hA ?_)
  refine safe_silent hA (silent_seq ..) (safe_silent hA (silent_call _ _ _ _ _ (fun c => rfl) _ _) ?_)
  refine safe_sample hconv (fun vars => ?_) _
  refine safe_silent (hD _) (silent_ret_caller ..) (safe_silent (hD _) (silent_seq ..) ?_)
  refine safe_cmd (hD _) (i := .adcOff) rfl rfl fun s t d hs ht _ => ?_
  refine safe_silent (hE _) (silent_ret ..) (safe_returned (hE _) rfl fun u hu => hQ _ _ hu ?_) t (hoff _ s t hs ht)
  exact congrArg (fun x => some (some x)) (getVar_setVar_same _ .r _)

/-- With GO 0 and ON 0 no agent's step sets either. -/
theorem stable_off {c : Config} (hc : c.WellFormed) (fmt : Bool) (chs : BitVec 8) :
    Stable NoReset fun s => Selected c fmt chs s ∧ s.adGo = false ∧ s.adOn = false := by
  rintro s e he ⟨hsel, hgo, hon⟩
  obtain ⟨hsel', hgo', -⟩ := stable_sampled hc fmt chs s.adsamp s e he ⟨hsel, hgo, rfl⟩
  obtain ⟨rfl, -⟩ := hsel
  refine ⟨hsel', hgo', ?_⟩
  rcases hardwareStep_cases e s with ⟨-, hstep⟩ | ⟨-, hstep⟩ <;> rw [hstep]
  · rw [withPorts_adOn, agent_adOn hc, hon, Bool.false_and]
  · exact hon

/-- The two commands of `read_channel` around its conversion. -/
theorem adcSelect_chs {c : Config} (hc : c.WellFormed) {s t : State} {ch : BitVec 8} (hs : s.cfg = c)
    (ht : exec (.adcSelect ch) s = .next t) : t.cfg = c ∧ t.adChs = ch &&& c.adcChsMask := by
  subst hs
  rw [effect_of_exec ht]
  exact ⟨effect_cfg _ s, effect_adChs hc (.adcSelect ch)⟩

theorem adcOff_selected {c : Config} (hc : c.WellFormed) {fmt : Bool} {chs : BitVec 8} {s t : State}
    (hs : Selected c fmt chs s) (hgo : s.adGo = false) (ht : exec .adcOff s = .next t) :
    Selected c fmt chs t ∧ t.adGo = false ∧ t.adOn = false := by
  obtain ⟨rfl, hfmt, hchs⟩ := hs
  obtain ⟨hkeep, -⟩ := putAd_adChs hc false
  cases ht
  exact ⟨⟨rfl, (putAdOn_adFmt s false).trans hfmt, hkeep.trans hchs⟩, (putAdOn_adGo s false).trans hgo,
    putAdOn_adOn s false⟩

/-- Settles O55: the range with resets in the schedule, and without one the converter off on the selected channel. -/
theorem readChannelReturnsTenBits : Obligations.ReadChannelReturnsTenBits := by
  intro ch s buz schedule z v hwf hrun hv
  have hret : z.host.returned ≠ none := by rw [hv]; simp
  refine ⟨?_, fun hreset => ?_⟩
  · exact assured_readChannel (Q := fun z => ∀ v, z.host.returned = some v → ∃ r : Int, v = some r ∧ 0 ≤ r ∧ r ≤ 1023)
      (S := fun t => t.cfg = s.cfg) (E := fun x _ => 0 ≤ x ∧ x ≤ 1023)
      (conversion_tenBits (fun _ => True) hwf) (stable_cfg _ s.cfg) (fun _ _ _ _ h => h) ch
      (fun u t hu ht => by cases ht; exact hu) (fun x _ _ hx _ => hx)
      (fun x z hx hz v hv => ⟨x, Option.some.inj (hv.symm.trans hz), hx⟩)
      schedule.length rfl buz schedule le_rfl (fun _ _ => trivial) z hrun hret v hv
  · exact assured_readChannel (Q := fun z => z.ttb.adOn = false ∧ z.ttb.adGo = false ∧ z.ttb.adFmt = false
        ∧ z.ttb.adChs = ch &&& s.cfg.adcChsMask)
      (S := fun t => t.cfg = s.cfg)
      (E := fun _ t => Selected s.cfg false (ch &&& s.cfg.adcChsMask) t ∧ t.adGo = false ∧ t.adOn = false)
      (conversion_read hwf (ch &&& s.cfg.adcChsMask)) (stable_cfg _ s.cfg) (fun _ => stable_off hwf _ _) ch
      (fun u t hu ht => adcSelect_chs hwf hu ht) (fun x u t ⟨hsel, hgo, _⟩ ht => adcOff_selected hwf hsel hgo ht)
      (fun x z ⟨⟨_, hfmt, hchs⟩, hgo, hon⟩ _ => ⟨hon, hgo, hfmt, hchs⟩)
      schedule.length rfl buz schedule le_rfl (noReset_of_schedule hreset) z hrun hret

end Sys2Proof
end
